-- ==== Sys2Proof/Word.lean ====
section
/-! DEFINITION. The byte and the word of the 80286 (00_scope.md R9, 20_memory.md R71). -/

namespace Sys2Proof

/-- The addressable unit of memory, 8 bits (20_memory.md R71). -/
abbrev Byte := BitVec 8

/-- A word, 16 bits (00_scope.md R9). -/
abbrev Word := BitVec 16

/-- A 24-bit physical address as a descriptor cache base holds it (00_scope.md R9). -/
abbrev Base := BitVec 24

end Sys2Proof
end

