-- ==== Sys2Proof/Syntax.lean ====
section
/-! DEFINITION. The instructions of spec/opcode_table.json, one constructor a row, and their operand forms
(30_encoding.md R111 to R119). -/

namespace Sys2Proof

/-- The eight general registers, in encoding order (10_state.md R30). -/
inductive Reg16 where
  | ax | cx | dx | bx | sp | bp | si | di
deriving DecidableEq, Repr

/-- The eight byte halves, in encoding order (10_state.md R31). -/
inductive Reg8 where
  | al | cl | dl | bl | ah | ch | dh | bh
deriving DecidableEq, Repr

/-- The four segment registers, in encoding order (10_state.md R41). -/
inductive SegReg where
  | es | cs | ss | ds
deriving DecidableEq, Repr

/-- The register parts of a memory operand's address, in the order of the `rm` field (30_encoding.md R116). -/
inductive BaseForm where
  | bxSi | bxDi | bpSi | bpDi | si | di | bp | bx
deriving DecidableEq, Repr

/-- The displacement that the `mod` field calls for: 00 none, 01 an 8-bit one, 10 a 16-bit one (30_encoding.md R115). -/
inductive Disp where
  | none
  | d8 (d : Byte)
  | d16 (d : Word)
deriving DecidableEq, Repr

/-- A memory operand (30_encoding.md R116): the form `mod` = 00, `rm` = 110 (a displacement and no register), or
registers and a displacement. -/
inductive MemOperand where
  | direct (d : Word)
  | based (b : BaseForm) (d : Disp)
deriving DecidableEq, Repr

/-- An r/m operand: a register (`mod` = 11) or memory (30_encoding.md R115). -/
inductive Rm (ρ : Type) where
  | reg (r : ρ)
  | mem (m : MemOperand)
deriving DecidableEq, Repr

/-- The instructions, one constructor for each row of spec/opcode_table.json, in the table's order. A prefix is an
instruction of its own: it is read and remembered, and the instruction it modifies follows (log entry 7). -/
inductive Instr where
  /-- `POP ES`, 07 (R142). -/
  | popEs
  /-- `LOADALL`, 0F 05 (R160). -/
  | loadall
  /-- `ADC r/m8, r8`, 10 /r (R268). -/
  | adcRm8R8 (dst : Rm Reg8) (src : Reg8)
  /-- `ADC r/m16, r16`, 11 /r (R268). -/
  | adcRm16R16 (dst : Rm Reg16) (src : Reg16)
  /-- `ADC r8, r/m8`, 12 /r (R268). -/
  | adcR8Rm8 (dst : Reg8) (src : Rm Reg8)
  /-- `ADC r16, r/m16`, 13 /r (R268). -/
  | adcR16Rm16 (dst : Reg16) (src : Rm Reg16)
  /-- `ADC AL, imm8`, 14 ib (R268). -/
  | adcAlImm8 (imm : Byte)
  /-- `ADC AX, imm16`, 15 iw (R268). -/
  | adcAxImm16 (imm : Word)
  /-- `POP SS`, 17 (R142). -/
  | popSs
  /-- `SBB r/m8, r8`, 18 /r (R269). -/
  | sbbRm8R8 (dst : Rm Reg8) (src : Reg8)
  /-- `SBB r/m16, r16`, 19 /r (R269). -/
  | sbbRm16R16 (dst : Rm Reg16) (src : Reg16)
  /-- `SBB r8, r/m8`, 1A /r (R269). -/
  | sbbR8Rm8 (dst : Reg8) (src : Rm Reg8)
  /-- `SBB r16, r/m16`, 1B /r (R269). -/
  | sbbR16Rm16 (dst : Reg16) (src : Rm Reg16)
  /-- `SBB AL, imm8`, 1C ib (R269). -/
  | sbbAlImm8 (imm : Byte)
  /-- `SBB AX, imm16`, 1D iw (R269). -/
  | sbbAxImm16 (imm : Word)
  /-- `POP DS`, 1F (R142). -/
  | popDs
  /-- The prefix ES:, 26 (R112). -/
  | esPrefix
  /-- The prefix CS:, 2E (R112). -/
  | csPrefix
  /-- The prefix SS:, 36 (R112). -/
  | ssPrefix
  /-- The prefix DS:, 3E (R112). -/
  | dsPrefix
  /-- `PUSH SP`, 54 (R250). -/
  | pushSp
  /-- `ADC r/m8, imm8`, 80 /2 ib (R268). -/
  | adcRm8Imm8 (dst : Rm Reg8) (imm : Byte)
  /-- `SBB r/m8, imm8`, 80 /3 ib (R269). -/
  | sbbRm8Imm8 (dst : Rm Reg8) (imm : Byte)
  /-- `ADC r/m16, imm16`, 81 /2 iw (R268). -/
  | adcRm16Imm16 (dst : Rm Reg16) (imm : Word)
  /-- `SBB r/m16, imm16`, 81 /3 iw (R269). -/
  | sbbRm16Imm16 (dst : Rm Reg16) (imm : Word)
  /-- `ADC r/m16, imm8` sign-extended, 83 /2 ib (R268). -/
  | adcRm16SextImm8 (dst : Rm Reg16) (imm : Byte)
  /-- `SBB r/m16, imm8` sign-extended, 83 /3 ib (R269). -/
  | sbbRm16SextImm8 (dst : Rm Reg16) (imm : Byte)
  /-- `XCHG r/m8, r8`, 86 /r (R267). -/
  | xchgRm8R8 (dst : Rm Reg8) (src : Reg8)
  /-- `XCHG r/m16, r16`, 87 /r (R267). -/
  | xchgRm16R16 (dst : Rm Reg16) (src : Reg16)
  /-- `MOV r/m8, r8`, 88 /r (R148). -/
  | movRm8R8 (dst : Rm Reg8) (src : Reg8)
  /-- `MOV r/m16, r16`, 89 /r (R148). -/
  | movRm16R16 (dst : Rm Reg16) (src : Reg16)
  /-- `MOV r8, r/m8`, 8A /r (R147). -/
  | movR8Rm8 (dst : Reg8) (src : Rm Reg8)
  /-- `MOV r16, r/m16`, 8B /r (R147). -/
  | movR16Rm16 (dst : Reg16) (src : Rm Reg16)
  /-- `MOV r/m16, Sreg`, 8C /r (R146). -/
  | movRm16Sreg (dst : Rm Reg16) (src : SegReg)
  /-- `MOV Sreg, r/m16`, 8E /r (R140); CS is not an instruction (R122). -/
  | movSregRm16 (dst : SegReg) (src : Rm Reg16)
  /-- `NOP`, 90 (R270). -/
  | nop
  /-- `XCHG AX, r16`, 91 to 97 (R267); 90 is NOP. -/
  | xchgAxR16 (src : Reg16)
  /-- `WAIT`, 9B (R231). -/
  | wait
  /-- `PUSHF`, 9C (R188). -/
  | pushf
  /-- `POPF`, 9D (R190). -/
  | popf
  /-- `ROL r/m8, imm8`, C0 /0 ib (R254). -/
  | rolRm8Imm8 (dst : Rm Reg8) (count : Byte)
  /-- `ROR r/m8, imm8`, C0 /1 ib (R255). -/
  | rorRm8Imm8 (dst : Rm Reg8) (count : Byte)
  /-- `RCL r/m8, imm8`, C0 /2 ib (R256). -/
  | rclRm8Imm8 (dst : Rm Reg8) (count : Byte)
  /-- `RCR r/m8, imm8`, C0 /3 ib (R257). -/
  | rcrRm8Imm8 (dst : Rm Reg8) (count : Byte)
  /-- `SHL r/m8, imm8`, C0 /4 ib (R258). -/
  | shlRm8Imm8 (dst : Rm Reg8) (count : Byte)
  /-- `SHR r/m8, imm8`, C0 /5 ib (R259). -/
  | shrRm8Imm8 (dst : Rm Reg8) (count : Byte)
  /-- `SAR r/m8, imm8`, C0 /7 ib (R260). -/
  | sarRm8Imm8 (dst : Rm Reg8) (count : Byte)
  /-- `ROL r/m16, imm8`, C1 /0 ib (R254). -/
  | rolRm16Imm8 (dst : Rm Reg16) (count : Byte)
  /-- `ROR r/m16, imm8`, C1 /1 ib (R255). -/
  | rorRm16Imm8 (dst : Rm Reg16) (count : Byte)
  /-- `RCL r/m16, imm8`, C1 /2 ib (R256). -/
  | rclRm16Imm8 (dst : Rm Reg16) (count : Byte)
  /-- `RCR r/m16, imm8`, C1 /3 ib (R257). -/
  | rcrRm16Imm8 (dst : Rm Reg16) (count : Byte)
  /-- `SHL r/m16, imm8`, C1 /4 ib (R258). -/
  | shlRm16Imm8 (dst : Rm Reg16) (count : Byte)
  /-- `SHR r/m16, imm8`, C1 /5 ib (R259). -/
  | shrRm16Imm8 (dst : Rm Reg16) (count : Byte)
  /-- `SAR r/m16, imm8`, C1 /7 ib (R260). -/
  | sarRm16Imm8 (dst : Rm Reg16) (count : Byte)
  /-- `LES r16, m16:16`, C4 /r (R143). -/
  | les (dst : Reg16) (src : MemOperand)
  /-- `LDS r16, m16:16`, C5 /r (R143). -/
  | lds (dst : Reg16) (src : MemOperand)
  /-- `INT 3`, CC (R181). -/
  | int3
  /-- `INT imm8`, CD ib (R180). -/
  | intImm8 (n : Byte)
  /-- `IRET`, CF (R193). -/
  | iret
  /-- `ROL r/m8, 1`, D0 /0 (R254). -/
  | rolRm8One (dst : Rm Reg8)
  /-- `ROR r/m8, 1`, D0 /1 (R255). -/
  | rorRm8One (dst : Rm Reg8)
  /-- `RCL r/m8, 1`, D0 /2 (R256). -/
  | rclRm8One (dst : Rm Reg8)
  /-- `RCR r/m8, 1`, D0 /3 (R257). -/
  | rcrRm8One (dst : Rm Reg8)
  /-- `SHL r/m8, 1`, D0 /4 (R258). -/
  | shlRm8One (dst : Rm Reg8)
  /-- `SHR r/m8, 1`, D0 /5 (R259). -/
  | shrRm8One (dst : Rm Reg8)
  /-- `SAR r/m8, 1`, D0 /7 (R260). -/
  | sarRm8One (dst : Rm Reg8)
  /-- `ROL r/m16, 1`, D1 /0 (R254). -/
  | rolRm16One (dst : Rm Reg16)
  /-- `ROR r/m16, 1`, D1 /1 (R255). -/
  | rorRm16One (dst : Rm Reg16)
  /-- `RCL r/m16, 1`, D1 /2 (R256). -/
  | rclRm16One (dst : Rm Reg16)
  /-- `RCR r/m16, 1`, D1 /3 (R257). -/
  | rcrRm16One (dst : Rm Reg16)
  /-- `SHL r/m16, 1`, D1 /4 (R258). -/
  | shlRm16One (dst : Rm Reg16)
  /-- `SHR r/m16, 1`, D1 /5 (R259). -/
  | shrRm16One (dst : Rm Reg16)
  /-- `SAR r/m16, 1`, D1 /7 (R260). -/
  | sarRm16One (dst : Rm Reg16)
  /-- `ROL r/m8, CL`, D2 /0 (R254). -/
  | rolRm8Cl (dst : Rm Reg8)
  /-- `ROR r/m8, CL`, D2 /1 (R255). -/
  | rorRm8Cl (dst : Rm Reg8)
  /-- `RCL r/m8, CL`, D2 /2 (R256). -/
  | rclRm8Cl (dst : Rm Reg8)
  /-- `RCR r/m8, CL`, D2 /3 (R257). -/
  | rcrRm8Cl (dst : Rm Reg8)
  /-- `SHL r/m8, CL`, D2 /4 (R258). -/
  | shlRm8Cl (dst : Rm Reg8)
  /-- `SHR r/m8, CL`, D2 /5 (R259). -/
  | shrRm8Cl (dst : Rm Reg8)
  /-- `SAR r/m8, CL`, D2 /7 (R260). -/
  | sarRm8Cl (dst : Rm Reg8)
  /-- `ROL r/m16, CL`, D3 /0 (R254). -/
  | rolRm16Cl (dst : Rm Reg16)
  /-- `ROR r/m16, CL`, D3 /1 (R255). -/
  | rorRm16Cl (dst : Rm Reg16)
  /-- `RCL r/m16, CL`, D3 /2 (R256). -/
  | rclRm16Cl (dst : Rm Reg16)
  /-- `RCR r/m16, CL`, D3 /3 (R257). -/
  | rcrRm16Cl (dst : Rm Reg16)
  /-- `SHL r/m16, CL`, D3 /4 (R258). -/
  | shlRm16Cl (dst : Rm Reg16)
  /-- `SHR r/m16, CL`, D3 /5 (R259). -/
  | shrRm16Cl (dst : Rm Reg16)
  /-- `SAR r/m16, CL`, D3 /7 (R260). -/
  | sarRm16Cl (dst : Rm Reg16)
  /-- `ESC`, D8 to DF and a ModRM byte (R225): `op` is bits 2-0 of the opcode, `reg` the ModRM field. -/
  | esc (op : BitVec 3) (reg : BitVec 3) (operand : Rm (BitVec 3))
  /-- `FNINIT`, DB E3 (R232). -/
  | fninit
  /-- `FSETPM`, DB E4 (R233). -/
  | fsetpm
  /-- `IN AL, imm8`, E4 ib (R211). -/
  | inAlImm8 (port : Byte)
  /-- `IN AX, imm8`, E5 ib (R211). -/
  | inAxImm8 (port : Byte)
  /-- `OUT imm8, AL`, E6 ib (R212). -/
  | outImm8Al (port : Byte)
  /-- `OUT imm8, AX`, E7 ib (R212). -/
  | outImm8Ax (port : Byte)
  /-- `JMP rel16`, E9 iw (R271). -/
  | jmpRel16 (rel : Word)
  /-- `JMP ptr16:16`, EA (R272). -/
  | jmpFar (off : Word) (seg : Word)
  /-- `JMP rel8`, EB ib (R271). -/
  | jmpRel8 (rel : Byte)
  /-- `IN AL, DX`, EC (R211). -/
  | inAlDx
  /-- `IN AX, DX`, ED (R211). -/
  | inAxDx
  /-- `OUT DX, AL`, EE (R212). -/
  | outDxAl
  /-- `OUT DX, AX`, EF (R212). -/
  | outDxAx
  /-- The prefix LOCK, F0 (R216). -/
  | lock
  /-- `DIV r/m8`, F6 /6 (R263). -/
  | divRm8 (src : Rm Reg8)
  /-- `IDIV r/m8`, F6 /7 (R262). -/
  | idivRm8 (src : Rm Reg8)
  /-- `DIV r/m16`, F7 /6 (R263). -/
  | divRm16 (src : Rm Reg16)
  /-- `IDIV r/m16`, F7 /7 (R262). -/
  | idivRm16 (src : Rm Reg16)
  /-- `CLI`, FA (R197). -/
  | cli
  /-- `STI`, FB (R196). -/
  | sti
deriving DecidableEq, Repr

/-- The 80286 instructions that 00_scope.md R8 puts out of scope, by name: it lists some and means every one the source does
not name. That a MOV or a JMP of another form than the table's is none of them is R8's wording: its instruction is named
(log entry 35). -/
inductive Excluded where
  | aaa | aad | aam | aas | add | and_ | arpl | bound | call | cbw | clc | cld | clts | cmc | cmp | cmps | cwd |
  daa | das | dec | enter | hlt | imul | inc | ins | into_ | jcc | jcxz | lahf | lar | lea | leave | lgdt | lidt |
  lldt | lmsw | lods | loop | loope | loopne | lsl | ltr | movs | or_ | outs | pop | popa | push | pusha | ret |
  sahf | scas | sgdt | sidt | sldt | smsw | stc | std | stos | str | sub | test | verr | verw | xlat | xor_
deriving DecidableEq, Repr

/-- Why a byte sequence is no instruction of this spec (30_encoding.md R122: refused by name where a rule names it). -/
inductive Reject where
  /-- An instruction that 00_scope.md R8 excludes (30_encoding.md R122; log entry 35 for its bytes). -/
  | excluded (i : Excluded)
  /-- A first byte that no line of 30_encoding.md R119 lists and no instruction of R8 begins with. -/
  | unlistedOpcode (b : Byte)
  /-- 0FH followed by a byte of which the same holds. -/
  | unlistedTwoByteOpcode (b : Byte)
  /-- FEH or FFH, or 0FH and then 00H or 01H, with a `reg` field of which the same holds. -/
  | unlistedGroupMember (b : Byte) (reg : BitVec 3)
  /-- 80H, 81H or 83H with `reg` other than 2, 3: ADD, OR, AND, SUB, XOR, CMP (30_encoding.md R120). -/
  | arithmeticGroupMember (reg : BitVec 3)
  /-- F6H or F7H with `reg` other than 6, 7: TEST, NOT, NEG, MUL, IMUL (30_encoding.md R120). -/
  | unaryGroupMember (reg : BitVec 3)
  /-- A shift opcode with `reg` = 6 (30_encoding.md R120, R122). -/
  | shiftGroupSix
  /-- `8E /r` with `reg` = 1, a MOV into CS (30_encoding.md R122). -/
  | movIntoCs
  /-- A segment register field of 4 to 7 (30_encoding.md R122). -/
  | segmentField (reg : BitVec 3)
  /-- LES or LDS with `mod` = 11 (30_encoding.md R122). -/
  | farPointerRegister
  /-- The repeat prefixes F2H and F3H (30_encoding.md R112). -/
  | repeatPrefix (b : Byte)
deriving DecidableEq, Repr

end Sys2Proof
end

