-- ==== Sys2Proof/WellFormed.lean ====
section
/-! DEFINITION. Which terms of the syntax are instructions that some bytes encode (30_encoding.md R116, R119, R122). -/

namespace Sys2Proof

/-- The form `BP` with no displacement has no encoding: `mod` = 00 with `rm` = 110 is a plain displacement
(30_encoding.md R116). -/
def MemOperand.wellFormed : MemOperand → Bool
  | .direct _ => true
  | .based .bp .none => false
  | .based _ _ => true

/-- A register operand is always well formed, a memory operand as `MemOperand.wellFormed` says. -/
def Rm.wellFormed {ρ : Type} : Rm ρ → Bool
  | .reg _ => true
  | .mem m => m.wellFormed

/-- `DB E3` and `DB E4` are FNINIT and FSETPM and not the general ESC row (30_encoding.md R121, R124). -/
def isControlEscape (op reg : BitVec 3) : Rm (BitVec 3) → Bool
  | .reg rm => op == 3 && reg == 4 && (rm == 3 || rm == 4)
  | .mem _ => false

/-- The terms that some bytes encode: every memory operand has an encoding, no MOV names CS as its destination
(30_encoding.md R122), `XCHG AX, AX` is NOP (R119) and `DB E3`, `DB E4` are not ESC (R124). -/
def Instr.wellFormed : Instr → Bool
  | .popEs => true
  | .loadall => true
  | .adcRm8R8 dst _ => dst.wellFormed
  | .adcRm16R16 dst _ => dst.wellFormed
  | .adcR8Rm8 _ src => src.wellFormed
  | .adcR16Rm16 _ src => src.wellFormed
  | .adcAlImm8 _ => true
  | .adcAxImm16 _ => true
  | .popSs => true
  | .sbbRm8R8 dst _ => dst.wellFormed
  | .sbbRm16R16 dst _ => dst.wellFormed
  | .sbbR8Rm8 _ src => src.wellFormed
  | .sbbR16Rm16 _ src => src.wellFormed
  | .sbbAlImm8 _ => true
  | .sbbAxImm16 _ => true
  | .popDs => true
  | .esPrefix => true
  | .csPrefix => true
  | .ssPrefix => true
  | .dsPrefix => true
  | .pushSp => true
  | .adcRm8Imm8 dst _ => dst.wellFormed
  | .sbbRm8Imm8 dst _ => dst.wellFormed
  | .adcRm16Imm16 dst _ => dst.wellFormed
  | .sbbRm16Imm16 dst _ => dst.wellFormed
  | .adcRm16SextImm8 dst _ => dst.wellFormed
  | .sbbRm16SextImm8 dst _ => dst.wellFormed
  | .xchgRm8R8 dst _ => dst.wellFormed
  | .xchgRm16R16 dst _ => dst.wellFormed
  | .movRm8R8 dst _ => dst.wellFormed
  | .movRm16R16 dst _ => dst.wellFormed
  | .movR8Rm8 _ src => src.wellFormed
  | .movR16Rm16 _ src => src.wellFormed
  | .movRm16Sreg dst _ => dst.wellFormed
  | .movSregRm16 dst src => dst != .cs && src.wellFormed
  | .nop => true
  | .xchgAxR16 src => src != .ax
  | .wait => true
  | .pushf => true
  | .popf => true
  | .rolRm8Imm8 dst _ => dst.wellFormed
  | .rorRm8Imm8 dst _ => dst.wellFormed
  | .rclRm8Imm8 dst _ => dst.wellFormed
  | .rcrRm8Imm8 dst _ => dst.wellFormed
  | .shlRm8Imm8 dst _ => dst.wellFormed
  | .shrRm8Imm8 dst _ => dst.wellFormed
  | .sarRm8Imm8 dst _ => dst.wellFormed
  | .rolRm16Imm8 dst _ => dst.wellFormed
  | .rorRm16Imm8 dst _ => dst.wellFormed
  | .rclRm16Imm8 dst _ => dst.wellFormed
  | .rcrRm16Imm8 dst _ => dst.wellFormed
  | .shlRm16Imm8 dst _ => dst.wellFormed
  | .shrRm16Imm8 dst _ => dst.wellFormed
  | .sarRm16Imm8 dst _ => dst.wellFormed
  | .les _ src => src.wellFormed
  | .lds _ src => src.wellFormed
  | .int3 => true
  | .intImm8 _ => true
  | .iret => true
  | .rolRm8One dst => dst.wellFormed
  | .rorRm8One dst => dst.wellFormed
  | .rclRm8One dst => dst.wellFormed
  | .rcrRm8One dst => dst.wellFormed
  | .shlRm8One dst => dst.wellFormed
  | .shrRm8One dst => dst.wellFormed
  | .sarRm8One dst => dst.wellFormed
  | .rolRm16One dst => dst.wellFormed
  | .rorRm16One dst => dst.wellFormed
  | .rclRm16One dst => dst.wellFormed
  | .rcrRm16One dst => dst.wellFormed
  | .shlRm16One dst => dst.wellFormed
  | .shrRm16One dst => dst.wellFormed
  | .sarRm16One dst => dst.wellFormed
  | .rolRm8Cl dst => dst.wellFormed
  | .rorRm8Cl dst => dst.wellFormed
  | .rclRm8Cl dst => dst.wellFormed
  | .rcrRm8Cl dst => dst.wellFormed
  | .shlRm8Cl dst => dst.wellFormed
  | .shrRm8Cl dst => dst.wellFormed
  | .sarRm8Cl dst => dst.wellFormed
  | .rolRm16Cl dst => dst.wellFormed
  | .rorRm16Cl dst => dst.wellFormed
  | .rclRm16Cl dst => dst.wellFormed
  | .rcrRm16Cl dst => dst.wellFormed
  | .shlRm16Cl dst => dst.wellFormed
  | .shrRm16Cl dst => dst.wellFormed
  | .sarRm16Cl dst => dst.wellFormed
  | .esc op reg operand => operand.wellFormed && !isControlEscape op reg operand
  | .fninit => true
  | .fsetpm => true
  | .inAlImm8 _ => true
  | .inAxImm8 _ => true
  | .outImm8Al _ => true
  | .outImm8Ax _ => true
  | .jmpRel16 _ => true
  | .jmpFar _ _ => true
  | .jmpRel8 _ => true
  | .inAlDx => true
  | .inAxDx => true
  | .outDxAl => true
  | .outDxAx => true
  | .lock => true
  | .divRm8 src => src.wellFormed
  | .idivRm8 src => src.wellFormed
  | .divRm16 src => src.wellFormed
  | .idivRm16 src => src.wellFormed
  | .cli => true
  | .sti => true

end Sys2Proof
end

