-- ==== Sys2Proof/Decode.lean ====
section
/-! DEFINITION. From bytes to an instruction or a refusal by name, and from a well-formed instruction to its bytes
(30_encoding.md R111 to R124). The encoding is the spec's own choice, D33 (log entry 20). -/

namespace Sys2Proof

/-- Encoding numbers of the general registers (30_encoding.md R115). -/
def Reg16.ofBits (b : BitVec 3) : Reg16 :=
  match b with
  | 0#3 => .ax | 1#3 => .cx | 2#3 => .dx | 3#3 => .bx | 4#3 => .sp | 5#3 => .bp | 6#3 => .si | _ => .di

/-- Encoding numbers of the general registers (30_encoding.md R115). -/
def Reg16.toBits : Reg16 → BitVec 3
  | .ax => 0#3 | .cx => 1#3 | .dx => 2#3 | .bx => 3#3 | .sp => 4#3 | .bp => 5#3 | .si => 6#3 | .di => 7#3

/-- Encoding numbers of the byte halves (30_encoding.md R115). -/
def Reg8.ofBits (b : BitVec 3) : Reg8 :=
  match b with
  | 0#3 => .al | 1#3 => .cl | 2#3 => .dl | 3#3 => .bl | 4#3 => .ah | 5#3 => .ch | 6#3 => .dh | _ => .bh

/-- Encoding numbers of the byte halves (30_encoding.md R115). -/
def Reg8.toBits : Reg8 → BitVec 3
  | .al => 0#3 | .cl => 1#3 | .dl => 2#3 | .bl => 3#3 | .ah => 4#3 | .ch => 5#3 | .dh => 6#3 | .bh => 7#3

/-- Encoding numbers of the segment registers; 4 to 7 name none (30_encoding.md R115). -/
def SegReg.ofBits (b : BitVec 3) : Option SegReg :=
  match b with
  | 0#3 => some .es | 1#3 => some .cs | 2#3 => some .ss | 3#3 => some .ds | _ => none

/-- Encoding numbers of the segment registers (30_encoding.md R115). -/
def SegReg.toBits : SegReg → BitVec 3
  | .es => 0#3 | .cs => 1#3 | .ss => 2#3 | .ds => 3#3

/-- The `rm` field of a memory operand (30_encoding.md R116); 110 is BP when there is a displacement. -/
def BaseForm.ofBits (b : BitVec 3) : BaseForm :=
  match b with
  | 0#3 => .bxSi | 1#3 => .bxDi | 2#3 => .bpSi | 3#3 => .bpDi | 4#3 => .si | 5#3 => .di | 6#3 => .bp | _ => .bx

/-- The `rm` field of a memory operand (30_encoding.md R116). -/
def BaseForm.toBits : BaseForm → BitVec 3
  | .bxSi => 0#3 | .bxDi => 1#3 | .bpSi => 2#3 | .bpDi => 3#3 | .si => 4#3 | .di => 5#3 | .bp => 6#3 | .bx => 7#3

/-- The same operand with its register number turned into another type. -/
def Rm.map {ρ σ : Type} (f : ρ → σ) : Rm ρ → Rm σ
  | .reg r => .reg (f r)
  | .mem m => .mem m

/-- The register of an r/m operand as a byte half. -/
def rm8 (o : Rm (BitVec 3)) : Rm Reg8 := o.map Reg8.ofBits

/-- The register of an r/m operand as a general register. -/
def rm16 (o : Rm (BitVec 3)) : Rm Reg16 := o.map Reg16.ofBits

/-- What the decoder answers: an instruction and the bytes after it, that more bytes are needed, or why no instruction
begins with these bytes. -/
inductive Decoded where
  | instr (i : Instr) (rest : List Byte)
  | short
  | reject (r : Reject)
deriving DecidableEq, Repr

/-- The `mod` field, bits 7-6 (30_encoding.md R115). -/
def modField (m : Byte) : BitVec 2 := m.extractLsb' 6 2

/-- The `reg` field, bits 5-3 (30_encoding.md R115). -/
def regField (m : Byte) : BitVec 3 := m.extractLsb' 3 3

/-- The `rm` field, bits 2-0 (30_encoding.md R115). -/
def rmField (m : Byte) : BitVec 3 := m.extractLsb' 0 3

/-- A word from its bytes, the low byte first (20_memory.md R84, 30_encoding.md R117). -/
def wordOf (lo hi : Byte) : Word := hi ++ lo

/-- The low byte of a word. -/
def lowByte (w : Word) : Byte := w.extractLsb' 0 8

/-- The high byte of a word. -/
def highByte (w : Word) : Byte := w.extractLsb' 8 8

/-- Reads one byte. -/
def withByte (bs : List Byte) (k : Byte → List Byte → Decoded) : Decoded :=
  match bs with
  | b :: t => k b t
  | [] => .short

/-- Reads one word, the low byte first (30_encoding.md R117). -/
def withWord (bs : List Byte) (k : Word → List Byte → Decoded) : Decoded :=
  match bs with
  | lo :: hi :: t => k (wordOf lo hi) t
  | _ => .short

/-- Reads the displacement that `mod` and `rm` call for (30_encoding.md R116); `mod` is not 11. -/
def withMemOperand (md : BitVec 2) (rm : BitVec 3) (bs : List Byte) (k : MemOperand → List Byte → Decoded) : Decoded :=
  match md with
  | 0#2 =>
    match rm with
    | 6#3 => withWord bs fun d t => k (.direct d) t
    | _ => k (.based (BaseForm.ofBits rm) .none) bs
  | 1#2 => withByte bs fun d t => k (.based (BaseForm.ofBits rm) (.d8 d)) t
  | _ => withWord bs fun d t => k (.based (BaseForm.ofBits rm) (.d16 d)) t

/-- Reads a ModRM byte and its displacement (30_encoding.md R115, R116) and hands on the `reg` field and the r/m
operand. -/
def withModrm (bs : List Byte) (k : BitVec 3 → Rm (BitVec 3) → List Byte → Decoded) : Decoded :=
  withByte bs fun m t =>
    match modField m with
    | 3#2 => k (regField m) (.reg (rmField m)) t
    | md => withMemOperand md (rmField m) t fun o t' => k (regField m) (.mem o) t'

/-- The group D0H: `reg` selects the shift or rotate (30_encoding.md R120). -/
def shiftGroup8One (reg : BitVec 3) (dst : Rm Reg8) (t : List Byte) : Decoded :=
  match reg with
  | 0#3 => .instr (.rolRm8One dst) t
  | 1#3 => .instr (.rorRm8One dst) t
  | 2#3 => .instr (.rclRm8One dst) t
  | 3#3 => .instr (.rcrRm8One dst) t
  | 4#3 => .instr (.shlRm8One dst) t
  | 5#3 => .instr (.shrRm8One dst) t
  | 7#3 => .instr (.sarRm8One dst) t
  | _ => .reject .shiftGroupSix

/-- The group D2H: `reg` selects the shift or rotate (30_encoding.md R120). -/
def shiftGroup8Cl (reg : BitVec 3) (dst : Rm Reg8) (t : List Byte) : Decoded :=
  match reg with
  | 0#3 => .instr (.rolRm8Cl dst) t
  | 1#3 => .instr (.rorRm8Cl dst) t
  | 2#3 => .instr (.rclRm8Cl dst) t
  | 3#3 => .instr (.rcrRm8Cl dst) t
  | 4#3 => .instr (.shlRm8Cl dst) t
  | 5#3 => .instr (.shrRm8Cl dst) t
  | 7#3 => .instr (.sarRm8Cl dst) t
  | _ => .reject .shiftGroupSix

/-- The group C0H: `reg` selects the shift or rotate (30_encoding.md R120). -/
def shiftGroup8Imm8 (reg : BitVec 3) (dst : Rm Reg8) (count : Byte) (t : List Byte) : Decoded :=
  match reg with
  | 0#3 => .instr (.rolRm8Imm8 dst count) t
  | 1#3 => .instr (.rorRm8Imm8 dst count) t
  | 2#3 => .instr (.rclRm8Imm8 dst count) t
  | 3#3 => .instr (.rcrRm8Imm8 dst count) t
  | 4#3 => .instr (.shlRm8Imm8 dst count) t
  | 5#3 => .instr (.shrRm8Imm8 dst count) t
  | 7#3 => .instr (.sarRm8Imm8 dst count) t
  | _ => .reject .shiftGroupSix

/-- The group D1H: `reg` selects the shift or rotate (30_encoding.md R120). -/
def shiftGroup16One (reg : BitVec 3) (dst : Rm Reg16) (t : List Byte) : Decoded :=
  match reg with
  | 0#3 => .instr (.rolRm16One dst) t
  | 1#3 => .instr (.rorRm16One dst) t
  | 2#3 => .instr (.rclRm16One dst) t
  | 3#3 => .instr (.rcrRm16One dst) t
  | 4#3 => .instr (.shlRm16One dst) t
  | 5#3 => .instr (.shrRm16One dst) t
  | 7#3 => .instr (.sarRm16One dst) t
  | _ => .reject .shiftGroupSix

/-- The group D3H: `reg` selects the shift or rotate (30_encoding.md R120). -/
def shiftGroup16Cl (reg : BitVec 3) (dst : Rm Reg16) (t : List Byte) : Decoded :=
  match reg with
  | 0#3 => .instr (.rolRm16Cl dst) t
  | 1#3 => .instr (.rorRm16Cl dst) t
  | 2#3 => .instr (.rclRm16Cl dst) t
  | 3#3 => .instr (.rcrRm16Cl dst) t
  | 4#3 => .instr (.shlRm16Cl dst) t
  | 5#3 => .instr (.shrRm16Cl dst) t
  | 7#3 => .instr (.sarRm16Cl dst) t
  | _ => .reject .shiftGroupSix

/-- The group C1H: `reg` selects the shift or rotate (30_encoding.md R120). -/
def shiftGroup16Imm8 (reg : BitVec 3) (dst : Rm Reg16) (count : Byte) (t : List Byte) : Decoded :=
  match reg with
  | 0#3 => .instr (.rolRm16Imm8 dst count) t
  | 1#3 => .instr (.rorRm16Imm8 dst count) t
  | 2#3 => .instr (.rclRm16Imm8 dst count) t
  | 3#3 => .instr (.rcrRm16Imm8 dst count) t
  | 4#3 => .instr (.shlRm16Imm8 dst count) t
  | 5#3 => .instr (.shrRm16Imm8 dst count) t
  | 7#3 => .instr (.sarRm16Imm8 dst count) t
  | _ => .reject .shiftGroupSix

/-- The group 80H (30_encoding.md R120). -/
def arithGroup80 (reg : BitVec 3) (dst : Rm Reg8) (imm : Byte) (t : List Byte) : Decoded :=
  match reg with
  | 2#3 => .instr (.adcRm8Imm8 dst imm) t
  | 3#3 => .instr (.sbbRm8Imm8 dst imm) t
  | _ => .reject (.arithmeticGroupMember reg)

/-- The group 81H (30_encoding.md R120). -/
def arithGroup81 (reg : BitVec 3) (dst : Rm Reg16) (imm : Word) (t : List Byte) : Decoded :=
  match reg with
  | 2#3 => .instr (.adcRm16Imm16 dst imm) t
  | 3#3 => .instr (.sbbRm16Imm16 dst imm) t
  | _ => .reject (.arithmeticGroupMember reg)

/-- The group 83H (30_encoding.md R120). -/
def arithGroup83 (reg : BitVec 3) (dst : Rm Reg16) (imm : Byte) (t : List Byte) : Decoded :=
  match reg with
  | 2#3 => .instr (.adcRm16SextImm8 dst imm) t
  | 3#3 => .instr (.sbbRm16SextImm8 dst imm) t
  | _ => .reject (.arithmeticGroupMember reg)

/-- The group F6H (30_encoding.md R120). -/
def unaryGroupF6 (reg : BitVec 3) (src : Rm Reg8) (t : List Byte) : Decoded :=
  match reg with
  | 6#3 => .instr (.divRm8 src) t
  | 7#3 => .instr (.idivRm8 src) t
  | _ => .reject (.unaryGroupMember reg)

/-- The group F7H (30_encoding.md R120). -/
def unaryGroupF7 (reg : BitVec 3) (src : Rm Reg16) (t : List Byte) : Decoded :=
  match reg with
  | 6#3 => .instr (.divRm16 src) t
  | 7#3 => .instr (.idivRm16 src) t
  | _ => .reject (.unaryGroupMember reg)

/-- `8C /r` (30_encoding.md R119, R122). -/
def movFromSreg (reg : BitVec 3) (dst : Rm Reg16) (t : List Byte) : Decoded :=
  match SegReg.ofBits reg with
  | some s => .instr (.movRm16Sreg dst s) t
  | none => .reject (.segmentField reg)

/-- `8E /r` (30_encoding.md R119, R122). -/
def movToSreg (reg : BitVec 3) (src : Rm Reg16) (t : List Byte) : Decoded :=
  match SegReg.ofBits reg with
  | some .cs => .reject .movIntoCs
  | some s => .instr (.movSregRm16 s src) t
  | none => .reject (.segmentField reg)

/-- `C4 /r` and `C5 /r`: the operand is in memory (30_encoding.md R122). -/
def farPointerLoad (build : Reg16 → MemOperand → Instr) (reg : BitVec 3) (src : Rm (BitVec 3)) (t : List Byte) : Decoded :=
  match src with
  | .mem m => .instr (build (Reg16.ofBits reg) m) t
  | .reg _ => .reject .farPointerRegister

/-- The ESC opcodes; `DB E3` and `DB E4` are FNINIT and FSETPM (30_encoding.md R121, R124). -/
def escape (op reg : BitVec 3) (o : Rm (BitVec 3)) (t : List Byte) : Decoded :=
  if isControlEscape op reg o then
    (if o = .reg 3#3 then .instr .fninit t else .instr .fsetpm t)
  else .instr (.esc op reg o) t

/-- The excluded instruction that a first byte stands for, where that byte alone tells it (00_scope.md R8; PRESUMED, log entry
35: the opcode bytes are the family's). -/
def excludedSingle (op : Byte) : Option Excluded :=
  match op with
  | 0x06#8 => some .push | 0x0E#8 => some .push | 0x16#8 => some .push | 0x1E#8 => some .push
  | 0x27#8 => some .daa | 0x2F#8 => some .das | 0x37#8 => some .aaa | 0x3F#8 => some .aas
  | 0x60#8 => some .pusha | 0x61#8 => some .popa | 0x62#8 => some .bound | 0x63#8 => some .arpl
  | 0x68#8 => some .push | 0x69#8 => some .imul | 0x6A#8 => some .push | 0x6B#8 => some .imul
  | 0x6C#8 => some .ins | 0x6D#8 => some .ins | 0x6E#8 => some .outs | 0x6F#8 => some .outs
  | 0x84#8 => some .test | 0x85#8 => some .test | 0x8D#8 => some .lea | 0x8F#8 => some .pop
  | 0x98#8 => some .cbw | 0x99#8 => some .cwd | 0x9A#8 => some .call | 0x9E#8 => some .sahf | 0x9F#8 => some .lahf
  | 0xA4#8 => some .movs | 0xA5#8 => some .movs | 0xA6#8 => some .cmps | 0xA7#8 => some .cmps
  | 0xA8#8 => some .test | 0xA9#8 => some .test | 0xAA#8 => some .stos | 0xAB#8 => some .stos
  | 0xAC#8 => some .lods | 0xAD#8 => some .lods | 0xAE#8 => some .scas | 0xAF#8 => some .scas
  | 0xC2#8 => some .ret | 0xC3#8 => some .ret | 0xC8#8 => some .enter | 0xC9#8 => some .leave
  | 0xCA#8 => some .ret | 0xCB#8 => some .ret | 0xCE#8 => some .into_
  | 0xD4#8 => some .aam | 0xD5#8 => some .aad | 0xD7#8 => some .xlat
  | 0xE0#8 => some .loopne | 0xE1#8 => some .loope | 0xE2#8 => some .loop | 0xE3#8 => some .jcxz | 0xE8#8 => some .call
  | 0xF4#8 => some .hlt | 0xF5#8 => some .cmc | 0xF8#8 => some .clc | 0xF9#8 => some .stc
  | 0xFC#8 => some .cld | 0xFD#8 => some .std
  | _ =>
    -- 40H to 5FH and 70H to 7FH have a register or a condition in their low bits; 00H to 3FH are eight rows of eight
    if op.extractLsb' 3 5 = 0x08#5 then some .inc
    else if op.extractLsb' 3 5 = 0x09#5 then some .dec
    else if op.extractLsb' 3 5 = 0x0A#5 then some .push
    else if op.extractLsb' 3 5 = 0x0B#5 then some .pop
    else if op.extractLsb' 4 4 = 0x7#4 then some .jcc
    else if op.extractLsb' 0 3 ≤ 5#3 then
      match op.extractLsb' 3 5 with
      | 0x00#5 => some .add | 0x01#5 => some .or_ | 0x04#5 => some .and_ | 0x05#5 => some .sub | 0x06#5 => some .xor_
      | 0x07#5 => some .cmp | _ => none
    else none

/-- The groups FEH and FFH; of FFH the members 4 and 5 are forms of JMP (00_scope.md R8; log entry 35). -/
def excludedGroup (op : Byte) (reg : BitVec 3) : Reject :=
  if reg = 0#3 then .excluded .inc
  else if reg = 1#3 then .excluded .dec
  else if op = 0xFE#8 then .unlistedGroupMember op reg
  else
    match reg with
    | 2#3 => .excluded .call | 3#3 => .excluded .call | 6#3 => .excluded .push | _ => .unlistedGroupMember op reg

/-- The group 0FH 00H (00_scope.md R8; log entry 35). -/
def excludedGroup00 (reg : BitVec 3) : Reject :=
  match reg with
  | 0#3 => .excluded .sldt | 1#3 => .excluded .str | 2#3 => .excluded .lldt | 3#3 => .excluded .ltr
  | 4#3 => .excluded .verr | 5#3 => .excluded .verw | _ => .unlistedGroupMember 0x00#8 reg

/-- The group 0FH 01H (00_scope.md R8; log entry 35). -/
def excludedGroup01 (reg : BitVec 3) : Reject :=
  match reg with
  | 0#3 => .excluded .sgdt | 1#3 => .excluded .sidt | 2#3 => .excluded .lgdt | 3#3 => .excluded .lidt
  | 4#3 => .excluded .smsw | 6#3 => .excluded .lmsw | _ => .unlistedGroupMember 0x01#8 reg

/-- A first byte that no line of 30_encoding.md R119 lists: refused by name where 00_scope.md R8 names the instruction, else as
unlisted (30_encoding.md R122). -/
def rejectSingle (op : Byte) : Reject :=
  match excludedSingle op with
  | some i => .excluded i
  | none => .unlistedOpcode op

/-- The instructions that begin with 0FH (30_encoding.md R119, R122). The members of the groups 00H and 01H are refused on their
ModRM byte, before any displacement is read (DESIGN CHOICE, log entry 40). -/
def decodeTwoByte (t : List Byte) : Decoded :=
  withByte t fun b t =>
    match b with
    | 0x00#8 => withByte t fun m _ => .reject (excludedGroup00 (regField m))
    | 0x01#8 => withByte t fun m _ => .reject (excludedGroup01 (regField m))
    | 0x02#8 => .reject (.excluded .lar)
    | 0x03#8 => .reject (.excluded .lsl)
    | 0x05#8 => .instr .loadall t
    | 0x06#8 => .reject (.excluded .clts)
    | _ => .reject (.unlistedTwoByteOpcode b)

/-- The instructions selected by their first byte alone or with a group field (30_encoding.md R119), but for the ranges
91H to 97H and D8H to DFH. How many bytes are read before a refusal, and so whether a byte beyond the CS limit raises its
exception first, the spec does not say: a group member or a register field that is refused under an opcode of R119 is read with
its displacement and with the immediate of that opcode's rows, every other refused encoding only as far as the byte that tells it
(DESIGN CHOICE, log entry 40). -/
def decodeSingle (op : Byte) (t : List Byte) : Decoded :=
  match op with
  | 0x07#8 => .instr .popEs t
  | 0x0F#8 => decodeTwoByte t
  | 0x10#8 => withModrm t fun reg o t => .instr (.adcRm8R8 (rm8 o) (Reg8.ofBits reg)) t
  | 0x11#8 => withModrm t fun reg o t => .instr (.adcRm16R16 (rm16 o) (Reg16.ofBits reg)) t
  | 0x12#8 => withModrm t fun reg o t => .instr (.adcR8Rm8 (Reg8.ofBits reg) (rm8 o)) t
  | 0x13#8 => withModrm t fun reg o t => .instr (.adcR16Rm16 (Reg16.ofBits reg) (rm16 o)) t
  | 0x14#8 => withByte t fun imm t => .instr (.adcAlImm8 imm) t
  | 0x15#8 => withWord t fun imm t => .instr (.adcAxImm16 imm) t
  | 0x17#8 => .instr .popSs t
  | 0x18#8 => withModrm t fun reg o t => .instr (.sbbRm8R8 (rm8 o) (Reg8.ofBits reg)) t
  | 0x19#8 => withModrm t fun reg o t => .instr (.sbbRm16R16 (rm16 o) (Reg16.ofBits reg)) t
  | 0x1A#8 => withModrm t fun reg o t => .instr (.sbbR8Rm8 (Reg8.ofBits reg) (rm8 o)) t
  | 0x1B#8 => withModrm t fun reg o t => .instr (.sbbR16Rm16 (Reg16.ofBits reg) (rm16 o)) t
  | 0x1C#8 => withByte t fun imm t => .instr (.sbbAlImm8 imm) t
  | 0x1D#8 => withWord t fun imm t => .instr (.sbbAxImm16 imm) t
  | 0x1F#8 => .instr .popDs t
  | 0x26#8 => .instr .esPrefix t
  | 0x2E#8 => .instr .csPrefix t
  | 0x36#8 => .instr .ssPrefix t
  | 0x3E#8 => .instr .dsPrefix t
  | 0x54#8 => .instr .pushSp t
  | 0x80#8 => withModrm t fun reg o t => withByte t fun imm t => arithGroup80 reg (rm8 o) imm t
  | 0x81#8 => withModrm t fun reg o t => withWord t fun imm t => arithGroup81 reg (rm16 o) imm t
  | 0x83#8 => withModrm t fun reg o t => withByte t fun imm t => arithGroup83 reg (rm16 o) imm t
  | 0x86#8 => withModrm t fun reg o t => .instr (.xchgRm8R8 (rm8 o) (Reg8.ofBits reg)) t
  | 0x87#8 => withModrm t fun reg o t => .instr (.xchgRm16R16 (rm16 o) (Reg16.ofBits reg)) t
  | 0x88#8 => withModrm t fun reg o t => .instr (.movRm8R8 (rm8 o) (Reg8.ofBits reg)) t
  | 0x89#8 => withModrm t fun reg o t => .instr (.movRm16R16 (rm16 o) (Reg16.ofBits reg)) t
  | 0x8A#8 => withModrm t fun reg o t => .instr (.movR8Rm8 (Reg8.ofBits reg) (rm8 o)) t
  | 0x8B#8 => withModrm t fun reg o t => .instr (.movR16Rm16 (Reg16.ofBits reg) (rm16 o)) t
  | 0x8C#8 => withModrm t fun reg o t => movFromSreg reg (rm16 o) t
  | 0x8E#8 => withModrm t fun reg o t => movToSreg reg (rm16 o) t
  | 0x90#8 => .instr .nop t
  | 0x9B#8 => .instr .wait t
  | 0x9C#8 => .instr .pushf t
  | 0x9D#8 => .instr .popf t
  | 0xC0#8 => withModrm t fun reg o t => withByte t fun count t => shiftGroup8Imm8 reg (rm8 o) count t
  | 0xC1#8 => withModrm t fun reg o t => withByte t fun count t => shiftGroup16Imm8 reg (rm16 o) count t
  | 0xC4#8 => withModrm t fun reg o t => farPointerLoad .les reg o t
  | 0xC5#8 => withModrm t fun reg o t => farPointerLoad .lds reg o t
  | 0xCC#8 => .instr .int3 t
  | 0xCD#8 => withByte t fun n t => .instr (.intImm8 n) t
  | 0xCF#8 => .instr .iret t
  | 0xD0#8 => withModrm t fun reg o t => shiftGroup8One reg (rm8 o) t
  | 0xD1#8 => withModrm t fun reg o t => shiftGroup16One reg (rm16 o) t
  | 0xD2#8 => withModrm t fun reg o t => shiftGroup8Cl reg (rm8 o) t
  | 0xD3#8 => withModrm t fun reg o t => shiftGroup16Cl reg (rm16 o) t
  | 0xE4#8 => withByte t fun port t => .instr (.inAlImm8 port) t
  | 0xE5#8 => withByte t fun port t => .instr (.inAxImm8 port) t
  | 0xE6#8 => withByte t fun port t => .instr (.outImm8Al port) t
  | 0xE7#8 => withByte t fun port t => .instr (.outImm8Ax port) t
  | 0xE9#8 => withWord t fun rel t => .instr (.jmpRel16 rel) t
  | 0xEA#8 => withWord t fun off t => withWord t fun seg t => .instr (.jmpFar off seg) t
  | 0xEB#8 => withByte t fun rel t => .instr (.jmpRel8 rel) t
  | 0xEC#8 => .instr .inAlDx t
  | 0xED#8 => .instr .inAxDx t
  | 0xEE#8 => .instr .outDxAl t
  | 0xEF#8 => .instr .outDxAx t
  | 0xF0#8 => .instr .lock t
  | 0xF2#8 => .reject (.repeatPrefix op)
  | 0xF3#8 => .reject (.repeatPrefix op)
  | 0xF6#8 => withModrm t fun reg o t => unaryGroupF6 reg (rm8 o) t
  | 0xF7#8 => withModrm t fun reg o t => unaryGroupF7 reg (rm16 o) t
  | 0xFA#8 => .instr .cli t
  | 0xFB#8 => .instr .sti t
  | 0xFE#8 => withByte t fun m _ => .reject (excludedGroup op (regField m))
  | 0xFF#8 => withByte t fun m _ => .reject (excludedGroup op (regField m))
  | _ => .reject (rejectSingle op)

/-- The instruction a byte sequence begins with (30_encoding.md R111, R119). A prefix byte is an instruction of its own
(log entry 7). -/
def decode : List Byte → Decoded
  | [] => .short
  | op :: t =>
    if op.extractLsb' 3 5 = 0x1B#5 then withModrm t fun reg o t => escape (op.extractLsb' 0 3) reg o t
    else if op.extractLsb' 3 5 = 0x12#5 ∧ op.extractLsb' 0 3 ≠ 0#3 then .instr (.xchgAxR16 (Reg16.ofBits (op.extractLsb' 0 3))) t
    else decodeSingle op t

/-- The ModRM byte (30_encoding.md R115). -/
def modrmByte (md : BitVec 2) (reg rm : BitVec 3) : Byte := (md ++ reg) ++ rm

/-- The low byte and then the high byte (30_encoding.md R117). -/
def wordBytes (w : Word) : List Byte := [lowByte w, highByte w]

/-- The ModRM byte and displacement of a memory operand (30_encoding.md R116). -/
def encodeMem (reg : BitVec 3) : MemOperand → List Byte
  | .direct d => modrmByte 0#2 reg 6#3 :: wordBytes d
  | .based b .none => [modrmByte 0#2 reg b.toBits]
  | .based b (.d8 d) => [modrmByte 1#2 reg b.toBits, d]
  | .based b (.d16 d) => modrmByte 2#2 reg b.toBits :: wordBytes d

/-- The ModRM byte and displacement of an r/m operand (30_encoding.md R115). -/
def encodeRm (reg : BitVec 3) : Rm (BitVec 3) → List Byte
  | .reg r => [modrmByte 3#2 reg r]
  | .mem m => encodeMem reg m

/-- The ModRM byte and displacement of a byte r/m operand. -/
def encodeRm8 (reg : BitVec 3) (o : Rm Reg8) : List Byte := encodeRm reg (o.map Reg8.toBits)

/-- The ModRM byte and displacement of a word r/m operand. -/
def encodeRm16 (reg : BitVec 3) (o : Rm Reg16) : List Byte := encodeRm reg (o.map Reg16.toBits)

/-- The bytes of a well-formed instruction (30_encoding.md R119); of a term that is not well formed, bytes that decode to
something else. -/
def encode : Instr → List Byte
  | .popEs => [0x07#8]
  | .loadall => [0x0F#8, 0x05#8]
  | .adcRm8R8 dst src => 0x10#8 :: encodeRm8 src.toBits dst
  | .adcRm16R16 dst src => 0x11#8 :: encodeRm16 src.toBits dst
  | .adcR8Rm8 dst src => 0x12#8 :: encodeRm8 dst.toBits src
  | .adcR16Rm16 dst src => 0x13#8 :: encodeRm16 dst.toBits src
  | .adcAlImm8 imm => [0x14#8, imm]
  | .adcAxImm16 imm => 0x15#8 :: wordBytes imm
  | .popSs => [0x17#8]
  | .sbbRm8R8 dst src => 0x18#8 :: encodeRm8 src.toBits dst
  | .sbbRm16R16 dst src => 0x19#8 :: encodeRm16 src.toBits dst
  | .sbbR8Rm8 dst src => 0x1A#8 :: encodeRm8 dst.toBits src
  | .sbbR16Rm16 dst src => 0x1B#8 :: encodeRm16 dst.toBits src
  | .sbbAlImm8 imm => [0x1C#8, imm]
  | .sbbAxImm16 imm => 0x1D#8 :: wordBytes imm
  | .popDs => [0x1F#8]
  | .esPrefix => [0x26#8]
  | .csPrefix => [0x2E#8]
  | .ssPrefix => [0x36#8]
  | .dsPrefix => [0x3E#8]
  | .pushSp => [0x54#8]
  | .adcRm8Imm8 dst imm => 0x80#8 :: (encodeRm8 2#3 dst ++ [imm])
  | .sbbRm8Imm8 dst imm => 0x80#8 :: (encodeRm8 3#3 dst ++ [imm])
  | .adcRm16Imm16 dst imm => 0x81#8 :: (encodeRm16 2#3 dst ++ wordBytes imm)
  | .sbbRm16Imm16 dst imm => 0x81#8 :: (encodeRm16 3#3 dst ++ wordBytes imm)
  | .adcRm16SextImm8 dst imm => 0x83#8 :: (encodeRm16 2#3 dst ++ [imm])
  | .sbbRm16SextImm8 dst imm => 0x83#8 :: (encodeRm16 3#3 dst ++ [imm])
  | .xchgRm8R8 dst src => 0x86#8 :: encodeRm8 src.toBits dst
  | .xchgRm16R16 dst src => 0x87#8 :: encodeRm16 src.toBits dst
  | .movRm8R8 dst src => 0x88#8 :: encodeRm8 src.toBits dst
  | .movRm16R16 dst src => 0x89#8 :: encodeRm16 src.toBits dst
  | .movR8Rm8 dst src => 0x8A#8 :: encodeRm8 dst.toBits src
  | .movR16Rm16 dst src => 0x8B#8 :: encodeRm16 dst.toBits src
  | .movRm16Sreg dst src => 0x8C#8 :: encodeRm16 src.toBits dst
  | .movSregRm16 dst src => 0x8E#8 :: encodeRm16 dst.toBits src
  | .nop => [0x90#8]
  | .xchgAxR16 src => [(0x12#5 ++ src.toBits : BitVec 8)]
  | .wait => [0x9B#8]
  | .pushf => [0x9C#8]
  | .popf => [0x9D#8]
  | .rolRm8Imm8 dst count => 0xC0#8 :: (encodeRm8 0#3 dst ++ [count])
  | .rorRm8Imm8 dst count => 0xC0#8 :: (encodeRm8 1#3 dst ++ [count])
  | .rclRm8Imm8 dst count => 0xC0#8 :: (encodeRm8 2#3 dst ++ [count])
  | .rcrRm8Imm8 dst count => 0xC0#8 :: (encodeRm8 3#3 dst ++ [count])
  | .shlRm8Imm8 dst count => 0xC0#8 :: (encodeRm8 4#3 dst ++ [count])
  | .shrRm8Imm8 dst count => 0xC0#8 :: (encodeRm8 5#3 dst ++ [count])
  | .sarRm8Imm8 dst count => 0xC0#8 :: (encodeRm8 7#3 dst ++ [count])
  | .rolRm16Imm8 dst count => 0xC1#8 :: (encodeRm16 0#3 dst ++ [count])
  | .rorRm16Imm8 dst count => 0xC1#8 :: (encodeRm16 1#3 dst ++ [count])
  | .rclRm16Imm8 dst count => 0xC1#8 :: (encodeRm16 2#3 dst ++ [count])
  | .rcrRm16Imm8 dst count => 0xC1#8 :: (encodeRm16 3#3 dst ++ [count])
  | .shlRm16Imm8 dst count => 0xC1#8 :: (encodeRm16 4#3 dst ++ [count])
  | .shrRm16Imm8 dst count => 0xC1#8 :: (encodeRm16 5#3 dst ++ [count])
  | .sarRm16Imm8 dst count => 0xC1#8 :: (encodeRm16 7#3 dst ++ [count])
  | .les dst src => 0xC4#8 :: encodeMem dst.toBits src
  | .lds dst src => 0xC5#8 :: encodeMem dst.toBits src
  | .int3 => [0xCC#8]
  | .intImm8 n => [0xCD#8, n]
  | .iret => [0xCF#8]
  | .rolRm8One dst => 0xD0#8 :: encodeRm8 0#3 dst
  | .rorRm8One dst => 0xD0#8 :: encodeRm8 1#3 dst
  | .rclRm8One dst => 0xD0#8 :: encodeRm8 2#3 dst
  | .rcrRm8One dst => 0xD0#8 :: encodeRm8 3#3 dst
  | .shlRm8One dst => 0xD0#8 :: encodeRm8 4#3 dst
  | .shrRm8One dst => 0xD0#8 :: encodeRm8 5#3 dst
  | .sarRm8One dst => 0xD0#8 :: encodeRm8 7#3 dst
  | .rolRm16One dst => 0xD1#8 :: encodeRm16 0#3 dst
  | .rorRm16One dst => 0xD1#8 :: encodeRm16 1#3 dst
  | .rclRm16One dst => 0xD1#8 :: encodeRm16 2#3 dst
  | .rcrRm16One dst => 0xD1#8 :: encodeRm16 3#3 dst
  | .shlRm16One dst => 0xD1#8 :: encodeRm16 4#3 dst
  | .shrRm16One dst => 0xD1#8 :: encodeRm16 5#3 dst
  | .sarRm16One dst => 0xD1#8 :: encodeRm16 7#3 dst
  | .rolRm8Cl dst => 0xD2#8 :: encodeRm8 0#3 dst
  | .rorRm8Cl dst => 0xD2#8 :: encodeRm8 1#3 dst
  | .rclRm8Cl dst => 0xD2#8 :: encodeRm8 2#3 dst
  | .rcrRm8Cl dst => 0xD2#8 :: encodeRm8 3#3 dst
  | .shlRm8Cl dst => 0xD2#8 :: encodeRm8 4#3 dst
  | .shrRm8Cl dst => 0xD2#8 :: encodeRm8 5#3 dst
  | .sarRm8Cl dst => 0xD2#8 :: encodeRm8 7#3 dst
  | .rolRm16Cl dst => 0xD3#8 :: encodeRm16 0#3 dst
  | .rorRm16Cl dst => 0xD3#8 :: encodeRm16 1#3 dst
  | .rclRm16Cl dst => 0xD3#8 :: encodeRm16 2#3 dst
  | .rcrRm16Cl dst => 0xD3#8 :: encodeRm16 3#3 dst
  | .shlRm16Cl dst => 0xD3#8 :: encodeRm16 4#3 dst
  | .shrRm16Cl dst => 0xD3#8 :: encodeRm16 5#3 dst
  | .sarRm16Cl dst => 0xD3#8 :: encodeRm16 7#3 dst
  | .esc op reg operand => (0x1B#5 ++ op : BitVec 8) :: encodeRm reg operand
  | .fninit => [0xDB#8, 0xE3#8]
  | .fsetpm => [0xDB#8, 0xE4#8]
  | .inAlImm8 port => [0xE4#8, port]
  | .inAxImm8 port => [0xE5#8, port]
  | .outImm8Al port => [0xE6#8, port]
  | .outImm8Ax port => [0xE7#8, port]
  | .jmpRel16 rel => 0xE9#8 :: wordBytes rel
  | .jmpFar off seg => 0xEA#8 :: (wordBytes off ++ wordBytes seg)
  | .jmpRel8 rel => [0xEB#8, rel]
  | .inAlDx => [0xEC#8]
  | .inAxDx => [0xED#8]
  | .outDxAl => [0xEE#8]
  | .outDxAx => [0xEF#8]
  | .lock => [0xF0#8]
  | .divRm8 src => 0xF6#8 :: encodeRm8 6#3 src
  | .idivRm8 src => 0xF6#8 :: encodeRm8 7#3 src
  | .divRm16 src => 0xF7#8 :: encodeRm16 6#3 src
  | .idivRm16 src => 0xF7#8 :: encodeRm16 7#3 src
  | .cli => [0xFA#8]
  | .sti => [0xFB#8]

/-- The longest instruction, prefixes included (30_encoding.md R123). -/
def maxInstrBytes : Nat := 10

/-- The bytes of an instruction whose bits are `w`, `nbits` of them, numbered as spec/opcode_table.json numbers them
(30_encoding.md R124): 16 bits are `byte0 * 256 + byte1`, so of each 16-bit unit the high half is the earlier byte; a
single byte is itself. Every further byte, up to the longest instruction, is 0. -/
def tableBytes (nbits w : Nat) : List Byte :=
  if nbits ≤ 8 then BitVec.ofNat 8 w :: List.replicate (maxInstrBytes - 1) 0#8
  else (List.range maxInstrBytes).map fun k => BitVec.ofNat 8 ((w % 2 ^ nbits) >>> (16 * (k / 2) + 8 * (1 - k % 2)))

/-- The instruction the decoder reads from a row's word. -/
def decodeTableWord (nbits w : Nat) : Option Instr :=
  match decode (tableBytes nbits w) with
  | .instr i _ => some i
  | _ => none

end Sys2Proof
end

