-- ==== Sys2Proof/Config.lean ====
section
/-! DEFINITION. What the spec leaves to the platform: its open parameters as plain data (00_scope.md R10), and the
free values, constants without a body that a step takes at a counter of State, so that nothing can be proved of their
value (log entries 3, 4 and 5). -/

namespace Sys2Proof

/-- Where the bits of an access rights byte stand (60_exceptions.md R301). -/
structure RightsBits where
  present : Fin 8
  dplHigh : Fin 8
  dplLow : Fin 8
  segment : Fin 8
  executable : Fin 8
  /-- ED of a data segment, C of a code segment. -/
  expandDown : Fin 8
  /-- W of a data segment, R of a code segment. -/
  writable : Fin 8
  accessed : Fin 8
deriving DecidableEq, Repr

/-- The layout of 60_exceptions.md R301. -/
def RightsBits.default : RightsBits :=
  { present := 7, dplHigh := 6, dplLow := 5, segment := 4, executable := 3, expandDown := 2, writable := 1, accessed := 0 }

/-- `DescFormat`: the formats of descriptors, gates, selectors, the TSS and the error codes (00_scope.md R10,
92_eei_decisions.md D16; log entry 21). Of an entry of a table each field is the offset of its first byte. -/
structure DescFormat where
  /-- The limit of a segment descriptor, 2 bytes. -/
  limit : Fin 7
  /-- The base of a segment descriptor, 3 bytes. -/
  base : Fin 6
  /-- The access rights byte of a segment descriptor. -/
  rights : Fin 8
  bits : RightsBits
  /-- The handler's offset in a gate, 2 bytes. -/
  gateOffset : Fin 7
  /-- The handler's selector in a gate, 2 bytes. -/
  gateSelector : Fin 7
  /-- The access byte of a gate. -/
  gateRights : Fin 8
  /-- S and the type bits of the access byte of a task gate (log entry 18). -/
  taskGate : BitVec 5
  /-- S and the type bits of the access byte of an interrupt gate. -/
  interruptGate : BitVec 5
  /-- S and the type bits of the access byte of a trap gate. -/
  trapGate : BitVec 5
  /-- Which bit above the RPL of a selector is TI; the other 13 are the index. -/
  tableBit : Fin 14
  /-- The back link field of the TSS. -/
  backLink : Nat
  /-- The SP for level 0 in the TSS. -/
  innerSp : Nat
  /-- The SS for level 0 in the TSS. -/
  innerSs : Nat
  /-- How far apart the fields of two levels are in the TSS. -/
  innerStride : Nat
  /-- The bit number of EXT in an error code. -/
  codeExt : Fin 16
  /-- The bit number of IDT in an error code. -/
  codeIdt : Fin 16
  /-- The bit number where the vector number begins in an error code. -/
  codeIndex : Fin 16
deriving DecidableEq, Repr

/-- The default of `DescFormat` (60_exceptions.md R300 to R304). -/
def DescFormat.default : DescFormat :=
  { limit := 0, base := 2, rights := 5, bits := RightsBits.default, gateOffset := 0, gateSelector := 2, gateRights := 5,
    taskGate := 5#5, interruptGate := 6#5, trapGate := 7#5, tableBit := 0, backLink := 0, innerSp := 2, innerSs := 4,
    innerStride := 4, codeExt := 0, codeIdt := 1, codeIndex := 3 }

/-- `LoadallImage`: the layout of the LOADALL memory area (00_scope.md R10, 92_eei_decisions.md D15; log entry 21). Each
field is the physical address of its first byte; the last three are offsets in a 6-byte cache entry. -/
structure LoadallImage where
  msw : Nat
  tr : Nat
  flags : Nat
  ip : Nat
  ldt : Nat
  ds : Nat
  ss : Nat
  cs : Nat
  es : Nat
  di : Nat
  si : Nat
  bp : Nat
  sp : Nat
  bx : Nat
  dx : Nat
  cx : Nat
  ax : Nat
  esEntry : Nat
  csEntry : Nat
  ssEntry : Nat
  dsEntry : Nat
  gdtr : Nat
  ldtEntry : Nat
  idtr : Nat
  tssEntry : Nat
  base : Fin 4
  rights : Fin 6
  limit : Fin 5
deriving DecidableEq, Repr

/-- The default of `LoadallImage` (41_loadall.md R170, R171). -/
def LoadallImage.default : LoadallImage :=
  { msw := 0x806, tr := 0x816, flags := 0x818, ip := 0x81A, ldt := 0x81C, ds := 0x81E, ss := 0x820, cs := 0x822, es := 0x824,
    di := 0x826, si := 0x828, bp := 0x82A, sp := 0x82C, bx := 0x82E, dx := 0x830, cx := 0x832, ax := 0x834,
    esEntry := 0x836, csEntry := 0x83C, ssEntry := 0x842, dsEntry := 0x848, gdtr := 0x84E, ldtEntry := 0x854,
    idtr := 0x85A, tssEntry := 0x860, base := 0, rights := 3, limit := 4 }

/-- The open parameters of 00_scope.md R10 that are plain data. State carries one, no step changes it, and a statement
about every state is a statement about every platform. DESIGN CHOICE, log entry 3. -/
structure Platform where
  /-- `MemMap` (20_memory.md R90): ranges (first, last) of physical addresses with no memory behind them. -/
  absent : List (Nat × Nat)
  /-- `MemMap` (00_scope.md R10): ranges (first, last) of physical addresses that are ROM: a write is discarded. -/
  rom : List (Nat × Nat)
  /-- `LoadallImage` (41_loadall.md R170). -/
  loadall : LoadallImage
  /-- `DescFormat` (60_exceptions.md R300 to R304). -/
  format : DescFormat
  /-- `PrefetchWindow` (20_memory.md R95): only bytes less than this many bytes ahead of the storing instruction's `ip1`
  can be stale; `none` is the spec's "no default": every written byte can be. -/
  prefetchWindow : Option Nat
  /-- `RealModeHighFlags` (10_state.md R38): whether POPF and IRET in real mode load IOPL and NT. -/
  realModeHighFlags : Bool
  /-- The instructions that cannot be locked (30_encoding.md R122), each by the bytes its encoding begins with (log entry
  8). -/
  unlockable : List (List Byte)
deriving DecidableEq, Repr

/-- Every address is RAM, the formats are the spec's defaults, no prefetch window is known, real mode keeps bits 15 to 12 of
the flag word zero (the default of 10_state.md R38), and every instruction can be locked. DESIGN CHOICE, log entries 3 and
8. -/
def Platform.default : Platform :=
  { absent := [], rom := [], loadall := LoadallImage.default, format := DescFormat.default, prefetchWindow := none,
    realModeHighFlags := false, unlockable := [] }

/-- What a byte of memory is read for. Between two advances of the counter an address is read at most once for each of these,
so that a free value taken at the counter, the purpose and the address is drawn anew by every read (00_scope.md R13: `any_N`;
log entry 4, which names the one exception). -/
inductive Purpose where
  /-- An operand, the stack, the LOADALL memory area. -/
  | data
  /-- An instruction byte. -/
  | fetch
  /-- The descriptor a segment register is loaded from. -/
  | loadedSegment
  /-- The descriptor of the code segment that IRET returns to. -/
  | returnCode
  /-- The descriptor of the stack segment that IRET returns to. -/
  | returnStack
  /-- The back link field of the TSS. -/
  | backLink
  /-- The gate or real-mode table entry of an INT or of an external interrupt. -/
  | interruptVector
  /-- The gate or real-mode table entry of an exception. -/
  | exceptionVector
  /-- The descriptor of a handler's code segment. -/
  | handler
  /-- The SS and SP of an inner level in the TSS. -/
  | innerPointer
  /-- The descriptor of an inner stack segment. -/
  | innerStack
deriving DecidableEq, Repr

namespace Config

/-- The value of a flag that an instruction leaves undefined (10_state.md R39, 92_eei_decisions.md D25), at the step's
counter and the flag's bit number. Log entry 4. -/
opaque undefinedFlag : Nat → Nat → Bool

/-- An undefined byte register after the write-protection fault of XCHG (45_integer_discrepancies.md R266), at the
step's counter. Log entry 4. -/
opaque undefinedByte : Nat → Byte

/-- An undefined word register after the write-protection fault of XCHG (45_integer_discrepancies.md R266), at the
step's counter. Log entry 4. -/
opaque undefinedWord : Nat → Word

/-- What a byte of an address with no memory behind it reads as (20_memory.md R90), at the step's counter, what it is read
for, and the address. Log entry 4. -/
opaque absentByte : Nat → Purpose → Nat → Byte

/-- Which of the bytes an address has held since the last flush a fetch returns (20_memory.md R95), at the step's
counter and the offset fetched; taken modulo the number of candidates. Log entry 4. -/
opaque staleChoice : Nat → Nat → Nat

/-- What a byte read of a port returns (20_memory.md R98), at the step's counter and the port. Log entry 4. -/
opaque portByte : Nat → Nat → Byte

/-- What a word read of a port returns (20_memory.md R98), at the step's counter and the port. Log entry 4. -/
opaque portWord : Nat → Nat → Word

/-- `Numerics287`: how many words beyond the first a memory operand has, for an ESC opcode and its `reg` field
(44_numeric_coprocessor.md R225, R226). Log entry 5. -/
opaque numericMoreWords : BitVec 3 → BitVec 3 → Nat

/-- `Numerics287`: whether the ESC instruction stores its memory operand (else it loads it), for an ESC opcode and its
`reg` field (44_numeric_coprocessor.md R225 step 3, R226). Log entry 5. -/
opaque numericStores : BitVec 3 → BitVec 3 → Bool

/-- `Numerics287`: the word an ESC instruction stores, at the step's counter and the word's place in the operand
(44_numeric_coprocessor.md R226). Log entry 5. -/
opaque numericWord : Nat → Nat → Word

/-- `Numerics287`: whether a data register is empty after an ESC instruction, at the step's counter and the register
(44_numeric_coprocessor.md R226). Log entry 5. -/
opaque numericTag : Nat → Nat → Bool

/-- `Numerics287`: the status word after an ESC instruction, at the step's counter (44_numeric_coprocessor.md R226); of it
also what FNINIT and the RESET pin leave in the bits that are not the top of stack. Log entries 5 and 37. -/
opaque numericStatus : Nat → Word

/-- `Numerics287`: the control word after an ESC instruction, at the step's counter (44_numeric_coprocessor.md R226); of it
also what FNINIT and the RESET pin leave in the bits that are not error masks. Log entries 5 and 37. -/
opaque numericControl : Nat → Word

/-- `Numerics287`: whether an ESC instruction ends in an unmasked numeric error, at the step's counter
(44_numeric_coprocessor.md R226, R230). Log entry 5. -/
opaque numericError : Nat → Bool

/-- A stored numeric address of a real-mode 80287 after FNINIT, which may clear it or not (44_numeric_coprocessor.md
R232), at the step's counter; 0 is `fip` and 1 is `fdp`. Log entry 4. -/
opaque numericPhysical : Nat → Nat → BitVec 20

/-- A part of a stored numeric address of a protected-mode 80287 after FNINIT (44_numeric_coprocessor.md R232), at the
step's counter; 0 and 1 are the selector and offset of `fip`, 2 and 3 those of `fdp`. Log entry 4. -/
opaque numericVirtual : Nat → Nat → Word

end Config

end Sys2Proof
end

