-- ==== Sys2Proof/Machine/State.lean ====
section
/-! DEFINITION. The state of the machine as plain data, why a step can stop, and the state right after RESET
(10_state.md). -/

namespace Sys2Proof.Machine

/-- The eight general registers (10_state.md R30). -/
structure Regs where
  ax : Word
  cx : Word
  dx : Word
  bx : Word
  sp : Word
  bp : Word
  si : Word
  di : Word
deriving DecidableEq, Repr

/-- The fields of the flag word (10_state.md R35). Bits 1, 3, 5 and 15 have fixed values and no storage
(`Flags.toWord`; log entry 23); `ie` is IF and `ovf` is OF. -/
structure Flags where
  cf : Bool
  pf : Bool
  af : Bool
  zf : Bool
  sf : Bool
  tf : Bool
  ie : Bool
  df : Bool
  ovf : Bool
  iopl : BitVec 2
  nt : Bool
deriving DecidableEq, Repr

/-- A descriptor cache entry (10_state.md R42). `writable` and `expandDown` are kept for data entries, `readable` and
`conforming` for code entries. -/
structure SegCache where
  base : Base
  limit : Word
  valid : Bool
  dpl : BitVec 2
  code : Bool
  writable : Bool
  expandDown : Bool
  readable : Bool
  conforming : Bool
deriving DecidableEq, Repr

/-- A segment register: its visible value and its descriptor cache entry, which are independent (10_state.md R41 to
R43). -/
structure Segment where
  val : Word
  cache : SegCache
deriving DecidableEq, Repr

/-- GDTR or IDTR: where a table is (10_state.md R46, R47). -/
structure TableReg where
  base : Base
  limit : Word
deriving DecidableEq, Repr

/-- LDTR or TR: a selector and a cache entry (10_state.md R46, R48; log entry 22). -/
structure SystemReg where
  val : Word
  base : Base
  limit : Word
  valid : Bool
deriving DecidableEq, Repr

/-- The operating modes of the 80286 and of the 80287 (00_scope.md R3, 10_state.md R50). -/
inductive Mode where
  | real
  | prot
deriving DecidableEq, Repr

/-- Whether the 80287 is idle, computing, or stuck after exception 9 (10_state.md R49, 44_numeric_coprocessor.md R229). -/
inductive Busy where
  | idle
  | busy
  | stuck
deriving DecidableEq, Repr

/-- A stored numeric address: a 20-bit physical address of a real-mode 80287, or a 32-bit virtual pointer of a
protected-mode one (44_numeric_coprocessor.md R235, R236). -/
inductive NumericAddress where
  | physical (a : BitVec 20)
  | virt (sel off : Word)
deriving DecidableEq, Repr

/-- The 80287 as the 80286 sees it (10_state.md R49, R50): `tags` holds for each data register whether it is empty;
the top of stack is a field of the status word and the error masks of the control word (`Numeric.top`, `Numeric.masks`). -/
structure Numeric where
  mode : Mode
  busy : Busy
  tags : Vector Bool 8
  status : Word
  control : Word
  errorPending : Bool
  fip : NumericAddress
  fdp : NumericAddress
deriving DecidableEq, Repr

/-- Physical memory: (address, byte) pairs in the canonical form of `Memory.wf` (20_memory.md R71; log entry 2). -/
abbrev Memory := List Host.Cell

/-- One access to a port (20_memory.md R98). -/
inductive PortAccess where
  | readByte (port : Word) (v : Byte)
  | readWord (port : Word) (v : Word)
  | writeByte (port : Word) (v : Byte)
  | writeWord (port : Word) (v : Word)
deriving DecidableEq, Repr

/-- What the environment does at one instruction boundary (60_exceptions.md R290, 70_reset_and_hazards.md R330, R332,
92_eei_decisions.md D19, D24). Log entry 9. -/
inductive Event where
  /-- Nothing; a pending exception 9 waits for a later boundary. -/
  | quiet
  /-- An external interrupt request with this vector is offered. -/
  | interrupt (n : Byte)
  /-- A pending exception 9 is delivered. -/
  | exception9
  /-- The RESET pin of the 80286. -/
  | reset
  /-- The RESET pin of the 80287. -/
  | resetNumeric
deriving DecidableEq, Repr

/-- The whole state. The fields after `platform` are the model's own (INVENTORY.md, State). -/
structure State where
  regs : Regs
  ip : Word
  flags : Flags
  msw : Word
  es : Segment
  cs : Segment
  ss : Segment
  ds : Segment
  gdtr : TableReg
  idtr : TableReg
  ldtr : SystemReg
  tr : SystemReg
  numeric : Numeric
  mem : Memory
  /-- The prefetcher's view (20_memory.md R95): for each byte written since the last flush, the address and the value the
  write replaced. The set W is the set of its addresses. -/
  superseded : List Host.Cell
  /-- Exception 9 has been raised and not yet delivered (44_numeric_coprocessor.md R229, 92_eei_decisions.md D24). -/
  exc9Pending : Bool
  /-- SS was loaded by the last instruction: no interrupt is accepted at the next boundary (40_segment_register_access.md
  R140, R142). -/
  intShadow : Bool
  /-- Every port access, oldest first (20_memory.md R98). -/
  ioLog : List PortAccess
  /-- What the environment does at the coming boundaries, soonest first (`IntSource`, 00_scope.md R10). -/
  inputs : List Event
  /-- The open parameters; no step changes them. -/
  platform : Platform
  /-- The offset after the instruction being executed (10_state.md R33), an unbounded integer; the fetch writes it. -/
  ip1 : Nat
  /-- IP has run off offset FFFFH and holds the low 16 bits (10_state.md R34; log entry 11). -/
  ipPastEnd : Bool
  /-- How many prefix bytes of the instruction at IP have been read (30_encoding.md R112; log entry 7). -/
  prefixLen : Nat
  /-- The last segment prefix of the instruction at IP (30_encoding.md R112). -/
  override : Option SegReg
  /-- The instruction at IP has a LOCK prefix (43_io_and_lock.md R216). -/
  lock : Bool
  /-- The counter that free values are taken at; each fetch of a prefix or an instruction advances it (log entry 4). -/
  freeIndex : Nat
deriving DecidableEq, Repr

/-- Why the machine stops with a fault: for no reason. Whatever the spec gives no meaning it refuses (00_scope.md R13, R14),
an access beyond the physical space among it (20_memory.md R81). -/
inductive Fault where
deriving DecidableEq, Repr

/-- Why a step has no meaning in this spec. -/
inductive Refusal where
  /-- An instruction without a meaning in this model; raised by `exec` only. Safe. -/
  | notModelled (mnemonic : String)
  /-- The bytes are no instruction of this spec (30_encoding.md R122). Raised by the fetch, and by `MOV` for the ill-formed
  term with destination CS. Safe: the hardware goes on. -/
  | undecodable (r : Reject)
  /-- An instruction of more than 10 bytes (30_encoding.md R123). Raised by the fetch. Safe. -/
  | instructionTooLong
  /-- LOCK before an instruction that the platform says cannot be locked (30_encoding.md R122; log entry 8). Raised by the
  fetch. Safe. -/
  | lockNotApplicable
  /-- A step that begins with TF = 1 (60_exceptions.md R318). Raised at the instruction boundary. Safe. -/
  | trapFlagSet
  /-- A step in protected mode with different dpl in the CS and SS entries (10_state.md R45). Raised at the instruction
  boundary. Safe. -/
  | privilegeMismatch
  /-- An access at or beyond physical address 2^24, which does not exist (20_memory.md R78 step 5, R81; log entry 12). Raised
  by every physical access. Safe: the hardware truncates the address and goes on. -/
  | beyondPhysicalSpace
  /-- A memory reference through an invalid SS entry (20_memory.md R78 step 1). Safe. -/
  | stackEntryInvalid
  /-- A write through a non-writable SS entry (20_memory.md R78 step 2). Safe. -/
  | stackEntryNotWritable
  /-- A limit violation through SS in real mode (20_memory.md R87). Safe. -/
  | realModeStackLimit
  /-- A shift or rotate by a masked count of 0 of a write-protected operand (45_integer_discrepancies.md R253). Safe. -/
  | zeroCountWriteProtected
  /-- Port I/O to 00F8H to 00FFH (20_memory.md R99). Raised by IN and OUT. Safe. -/
  | reservedPort
  /-- WAIT, or an ESC other than FNINIT (FSETPM is one), while the 80287 is stuck (44_numeric_coprocessor.md R229, R231). Raised
  by those. Safe. -/
  | coprocessorStuck
  /-- A far JMP in protected mode (45_integer_discrepancies.md R272). Safe. -/
  | protectedFarTransfer
  /-- IRET with NT = 1 and a back link other than 0 (42_interrupt_and_flag_instructions.md R193, R195). Safe. -/
  | taskSwitch
  /-- Entry through a task gate (60_exceptions.md R306). Safe. -/
  | taskGate
  /-- Entry through a gate that is not present (60_exceptions.md R305). Safe. -/
  | gateNotPresent
  /-- A gate whose selector names no present code segment with dpl not above CPL (60_exceptions.md R305). Safe. -/
  | handlerSegment
  /-- An inner stack selector of the TSS that names no present writable data segment of the new level (60_exceptions.md
  R305). Safe. -/
  | innerStackSegment
  /-- A gate whose offset is beyond the handler's limit (60_exceptions.md R305). Safe. -/
  | handlerOffset
  /-- An exception while a handler is entered (60_exceptions.md R305, R312). Safe. -/
  | faultDuringEntry
  /-- A vector outside the real-mode table (60_exceptions.md R308). Safe. -/
  | vectorOutsideTable
deriving DecidableEq, Repr

/-- The cache entry of every segment register after RESET but for its base: limit FFFFH, valid, dpl 0, writable data, not
expand-down (10_state.md R53). -/
def SegCache.resetAt (base : Base) : SegCache :=
  { base := base, limit := 0xFFFF#16, valid := true, dpl := 0#2, code := false, writable := true, expandDown := false,
    readable := false, conforming := false }

/-- The flag word 0002H (10_state.md R53). -/
def Flags.reset : Flags :=
  { cf := false, pf := false, af := false, zf := false, sf := false, tf := false, ie := false, df := false, ovf := false,
    iopl := 0#2, nt := false }

/-- The 80287 after its own RESET (10_state.md R53, 70_reset_and_hazards.md R332): top of stack 0, every error masked. The
addresses are DESIGN CHOICE, log entry 1; the other bits of the status and control words are PRESUMED, log entry 37. -/
def Numeric.reset : Numeric :=
  { mode := .real, busy := .idle, tags := Vector.replicate 8 true, status := 0x0000#16, control := 0x037F#16,
    errorPending := false, fip := .physical 0#20, fdp := .physical 0#20 }

/-- The machine right after RESET (10_state.md R53). The general registers, GDTR, LDTR and TR are DESIGN CHOICE zero (log
entry 1); memory lists nothing (log entry 2); that the 80287 has been through its own RESET is DESIGN CHOICE (log entry
39). -/
def State.reset : State :=
  { regs := { ax := 0#16, cx := 0#16, dx := 0#16, bx := 0#16, sp := 0#16, bp := 0#16, si := 0#16, di := 0#16 }
    ip := 0xFFF0#16
    flags := Flags.reset
    msw := 0xFFF0#16
    es := { val := 0#16, cache := SegCache.resetAt 0#24 }
    cs := { val := 0xF000#16, cache := SegCache.resetAt 0xFF0000#24 }
    ss := { val := 0#16, cache := SegCache.resetAt 0#24 }
    ds := { val := 0#16, cache := SegCache.resetAt 0#24 }
    gdtr := { base := 0#24, limit := 0#16 }
    idtr := { base := 0#24, limit := 0x03FF#16 }
    ldtr := { val := 0#16, base := 0#24, limit := 0#16, valid := false }
    tr := { val := 0#16, base := 0#24, limit := 0#16, valid := false }
    numeric := Numeric.reset
    mem := []
    superseded := []
    exc9Pending := false
    intShadow := false
    ioLog := []
    inputs := []
    platform := Platform.default
    ip1 := 0xFFF0
    ipPastEnd := false
    prefixLen := 0
    override := none
    lock := false
    freeIndex := 0 }

end Sys2Proof.Machine
end

