-- ==== Sys2Proof/Machine/Flags.lean ====
section
/-! DEFINITION. The flag word as a word, the loads of it, and every value and flag that the arithmetic, shift and rotate
instructions compute (10_state.md R35, R39; 42_interrupt_and_flag_instructions.md R189; 45_integer_discrepancies.md R252
to R260, R268, R269). -/

namespace Sys2Proof.Machine

/-- The flag word as PUSHF and an entry save it: bit 1 reads 1, bits 3, 5 and 15 read 0 (10_state.md R35). -/
def Flags.toWord (f : Flags) : Word :=
  0#1 ++ BitVec.ofBool f.nt ++ f.iopl ++ BitVec.ofBool f.ovf ++ BitVec.ofBool f.df ++ BitVec.ofBool f.ie ++
    BitVec.ofBool f.tf ++ BitVec.ofBool f.sf ++ BitVec.ofBool f.zf ++ 0#1 ++ BitVec.ofBool f.af ++ 0#1 ++
    BitVec.ofBool f.pf ++ 1#1 ++ BitVec.ofBool f.cf

/-- The fields of a flag word (10_state.md R35). -/
def Flags.ofWord (w : Word) : Flags :=
  { cf := w.getLsbD 0, pf := w.getLsbD 2, af := w.getLsbD 4, zf := w.getLsbD 6, sf := w.getLsbD 7, tf := w.getLsbD 8,
    ie := w.getLsbD 9, df := w.getLsbD 10, ovf := w.getLsbD 11, iopl := w.extractLsb' 12 2, nt := w.getLsbD 14 }

/-- `LoadFlags(v)` of POPF and IRET (42_interrupt_and_flag_instructions.md R189). In protected mode IF changes only when
`cpl <= IOPL` (the IOPL before the load), IOPL only at level 0, NT always; in real mode IF changes, and IOPL and NT as
`RealModeHighFlags` says (10_state.md R38). -/
def Flags.load (f : Flags) (prot : Bool) (cpl : BitVec 2) (highFlags : Bool) (v : Word) : Flags :=
  let n := Flags.ofWord v
  if prot then
    { n with
      ie := if cpl ≤ f.iopl then n.ie else f.ie
      iopl := if cpl = 0#2 then n.iopl else f.iopl }
  else if highFlags then n
  else { n with iopl := 0#2, nt := false }

/-- 1 when a byte has an even number of 1 bits (10_state.md R35, 45_integer_discrepancies.md R253). -/
def parity (b : Byte) : Bool :=
  !(b.getLsbD 0 ^^ b.getLsbD 1 ^^ b.getLsbD 2 ^^ b.getLsbD 3 ^^ b.getLsbD 4 ^^ b.getLsbD 5 ^^ b.getLsbD 6 ^^ b.getLsbD 7)

/-- SF, ZF and PF of a result (10_state.md R35). -/
def Flags.ofResult {w : Nat} (f : Flags) (r : BitVec w) : Flags :=
  { f with sf := r.msb, zf := decide (r = 0), pf := parity (r.setWidth 8) }

/-- The sum of ADC (45_integer_discrepancies.md R268). -/
def adcResult {w : Nat} (a b : BitVec w) (c : Bool) : BitVec w := BitVec.ofNat w (a.toNat + b.toNat + c.toNat)

/-- The six flags of ADC (45_integer_discrepancies.md R268). -/
def adcFlags {w : Nat} (f : Flags) (a b : BitVec w) (c : Bool) : Flags :=
  let r := adcResult a b c
  Flags.ofResult
    { f with
      cf := decide (2 ^ w ≤ a.toNat + b.toNat + c.toNat)
      af := decide (16 ≤ a.toNat % 16 + b.toNat % 16 + c.toNat)
      ovf := a.msb == b.msb && r.msb != a.msb } r

/-- The difference of SBB (45_integer_discrepancies.md R269). -/
def sbbResult {w : Nat} (a b : BitVec w) (c : Bool) : BitVec w :=
  BitVec.ofInt w ((a.toNat : Int) - (b.toNat : Int) - (c.toNat : Int))

/-- The six flags of SBB (45_integer_discrepancies.md R269). -/
def sbbFlags {w : Nat} (f : Flags) (a b : BitVec w) (c : Bool) : Flags :=
  let r := sbbResult a b c
  Flags.ofResult
    { f with
      cf := decide ((a.toNat : Int) - (b.toNat : Int) - (c.toNat : Int) < 0)
      af := decide (((a.toNat % 16 : Nat) : Int) - ((b.toNat % 16 : Nat) : Int) - (c.toNat : Int) < 0)
      ovf := a.msb != b.msb && r.msb != a.msb } r

/-- The two instructions that add or subtract with the carry. -/
inductive CarryOp where
  | adc
  | sbb
deriving DecidableEq, Repr

/-- The result of ADC or SBB. -/
def CarryOp.result {w : Nat} (op : CarryOp) (a b : BitVec w) (c : Bool) : BitVec w :=
  match op with
  | .adc => adcResult a b c
  | .sbb => sbbResult a b c

/-- The flags of ADC or SBB. -/
def CarryOp.flags {w : Nat} (op : CarryOp) (f : Flags) (a b : BitVec w) : Flags :=
  match op with
  | .adc => adcFlags f a b f.cf
  | .sbb => sbbFlags f a b f.cf

/-- The six arithmetic flags undefined: free values at the step's counter, told apart by their bit numbers (10_state.md
R39, 92_eei_decisions.md D25). -/
def Flags.undefinedSix (f : Flags) (index : Nat) : Flags :=
  { f with
    cf := Config.undefinedFlag index 0
    pf := Config.undefinedFlag index 2
    af := Config.undefinedFlag index 4
    zf := Config.undefinedFlag index 6
    sf := Config.undefinedFlag index 7
    ovf := Config.undefinedFlag index 11 }

/-- CF and OF undefined (45_integer_discrepancies.md R266). -/
def Flags.undefinedCarryOverflow (f : Flags) (index : Nat) : Flags :=
  { f with cf := Config.undefinedFlag index 0, ovf := Config.undefinedFlag index 11 }

/-- The seven shifts and rotates (45_integer_discrepancies.md R252). -/
inductive ShiftOp where
  | rol | ror | rcl | rcr | shl | shr | sar
deriving DecidableEq, Repr

/-- The top bit of a `w`-bit value set to `b`, every other bit 0. -/
def topBit (w : Nat) (b : Bool) : BitVec w := (BitVec.ofBool b).setWidth w <<< (w - 1)

/-- One step of a shift or rotate: the new operand and the new carry (45_integer_discrepancies.md R252). -/
def shiftStep {w : Nat} (op : ShiftOp) (v : BitVec w) (c : Bool) : BitVec w × Bool :=
  match op with
  | .rol => (v <<< 1 ||| (BitVec.ofBool v.msb).setWidth w, v.msb)
  | .ror => (v >>> 1 ||| topBit w (v.getLsbD 0), v.getLsbD 0)
  | .rcl => (v <<< 1 ||| (BitVec.ofBool c).setWidth w, v.msb)
  | .rcr => (v >>> 1 ||| topBit w c, v.getLsbD 0)
  | .shl => (v <<< 1, v.msb)
  | .shr => (v >>> 1, v.getLsbD 0)
  | .sar => (v >>> 1 ||| topBit w v.msb, v.getLsbD 0)

/-- The step repeated `n` times (45_integer_discrepancies.md R253). -/
def shiftTimes {w : Nat} (op : ShiftOp) : Nat → BitVec w → Bool → BitVec w × Bool
  | 0, v, c => (v, c)
  | n + 1, v, c => shiftTimes op n (shiftStep op v c).1 (shiftStep op v c).2

/-- The number of steps: the count masked to 5 bits (45_integer_discrepancies.md R253). -/
def shiftCount (count : Byte) : Nat := count.toNat % 32

/-- OF after a shift or rotate by one, from the operand before, the result and the new carry (45_integer_discrepancies.md
R254 to R260). -/
def overflowByOne {w : Nat} (op : ShiftOp) (v0 r : BitVec w) (c : Bool) : Bool :=
  match op with
  | .rol => r.msb ^^ c
  | .ror => r.msb ^^ r.getLsbD (w - 2)
  | .rcl => r.msb ^^ c
  | .rcr => r.msb ^^ r.getLsbD (w - 2)
  | .shl => r.msb ^^ c
  | .shr => v0.msb
  | .sar => false

/-- Whether the operation is a shift, which writes SF, ZF and PF and leaves AF undefined; a rotate leaves the four as they
are (45_integer_discrepancies.md R253). -/
def ShiftOp.isShift : ShiftOp → Bool
  | .shl => true
  | .shr => true
  | .sar => true
  | .rol => false
  | .ror => false
  | .rcl => false
  | .rcr => false

/-- Whether the operation consumes the carry, so that it is not restartable after a write-protection fault
(45_integer_discrepancies.md R266). -/
def ShiftOp.throughCarry : ShiftOp → Bool
  | .rcl => true
  | .rcr => true
  | .rol => false
  | .ror => false
  | .shl => false
  | .shr => false
  | .sar => false

/-- The result of `n` steps on `v` with the carry of `f` (45_integer_discrepancies.md R253). -/
def shiftResult {w : Nat} (op : ShiftOp) (f : Flags) (n : Nat) (v : BitVec w) : BitVec w := (shiftTimes op n v f.cf).1

/-- The flags after `n` steps, `n` not 0 (45_integer_discrepancies.md R253): OF is undefined unless `n` is 1, AF is
undefined after a shift. -/
def shiftFlags {w : Nat} (op : ShiftOp) (f : Flags) (index n : Nat) (v : BitVec w) : Flags :=
  let r := (shiftTimes op n v f.cf).1
  let c := (shiftTimes op n v f.cf).2
  let g := { f with
    cf := c
    ovf := if n = 1 then overflowByOne op v r c else Config.undefinedFlag index 11 }
  if op.isShift then Flags.ofResult { g with af := Config.undefinedFlag index 4 } r else g

end Sys2Proof.Machine
end

