-- ==== Sys2Proof/Machine/Ops.lean ====
section
/-! DEFINITION. The named operations over registers and memory, the checked address, the stack, the segment loads, taking
an exception and returning from one (00_scope.md R13; 20_memory.md R70 to R96; 40_segment_register_access.md R141 to R145;
42_interrupt_and_flag_instructions.md R193; 60_exceptions.md R280 to R309). -/

namespace Sys2Proof.Machine

/-! ### Exceptions and ends of an instruction -/

/-- The exceptions of this spec (60_exceptions.md R280). -/
inductive Exc where
  | divideError
  | extensionNotAvailable
  | segmentOverrun
  | segmentNotPresent
  | stackFault
  | generalProtection
  | extensionError
deriving DecidableEq, Repr

/-- The vector number of an exception (60_exceptions.md R280). -/
def Exc.vector : Exc → Nat
  | .divideError => 0
  | .extensionNotAvailable => 7
  | .segmentOverrun => 9
  | .segmentNotPresent => 11
  | .stackFault => 12
  | .generalProtection => 13
  | .extensionError => 16

/-- How an instruction can end other than in its own effect: `raise` of 00_scope.md R13 with the state before the
instruction (`trap`) or with another state at the trap (`trapIn`), or `refuse`. -/
inductive Stop where
  | trap (x : Exc) (ec : Option Word)
  | trapIn (s : State) (x : Exc) (ec : Option Word)
  | refuse (r : Refusal)
deriving DecidableEq, Repr

/-- A computation that can end an instruction. -/
abbrev Try := Except Stop

/-- The outcome of a step. -/
abbrev Out := Host.Outcome State Fault Refusal

/-- Ends with `e` unless `b`. -/
def require (b : Bool) (e : Stop) : Try Unit := if b then .ok () else .error e

/-- Exception 13 with error code 0, the code of every case but a segment load and an INT (60_exceptions.md R281). -/
def protectionFault : Stop := .trap .generalProtection (some 0#16)

/-! ### General registers -/

/-- `x[r]` for a 16-bit register (10_state.md R30). -/
def Regs.get16 (r : Regs) : Reg16 → Word
  | .ax => r.ax
  | .cx => r.cx
  | .dx => r.dx
  | .bx => r.bx
  | .sp => r.sp
  | .bp => r.bp
  | .si => r.si
  | .di => r.di

/-- `x[r] <- v` for a 16-bit register (10_state.md R30). -/
def Regs.set16 (r : Regs) (i : Reg16) (v : Word) : Regs :=
  match i with
  | .ax => { r with ax := v }
  | .cx => { r with cx := v }
  | .dx => { r with dx := v }
  | .bx => { r with bx := v }
  | .sp => { r with sp := v }
  | .bp => { r with bp := v }
  | .si => { r with si := v }
  | .di => { r with di := v }

/-- `x[r]` for a byte half (10_state.md R31). -/
def Regs.get8 (r : Regs) : Reg8 → Byte
  | .al => lowByte r.ax
  | .cl => lowByte r.cx
  | .dl => lowByte r.dx
  | .bl => lowByte r.bx
  | .ah => highByte r.ax
  | .ch => highByte r.cx
  | .dh => highByte r.dx
  | .bh => highByte r.bx

/-- `x[r] <- v` for a byte half; the other half is unchanged (10_state.md R31). -/
def Regs.set8 (r : Regs) (i : Reg8) (v : Byte) : Regs :=
  match i with
  | .al => { r with ax := wordOf v (highByte r.ax) }
  | .cl => { r with cx := wordOf v (highByte r.cx) }
  | .dl => { r with dx := wordOf v (highByte r.dx) }
  | .bl => { r with bx := wordOf v (highByte r.bx) }
  | .ah => { r with ax := wordOf (lowByte r.ax) v }
  | .ch => { r with cx := wordOf (lowByte r.cx) v }
  | .dh => { r with dx := wordOf (lowByte r.dx) v }
  | .bh => { r with bx := wordOf (lowByte r.bx) v }

/-! ### Mode, privilege, segment registers -/

/-- `mode = Protected`: PE, bit 0 of the MSW, is 1 (10_state.md R40). -/
def State.prot (s : State) : Bool := s.msw.getLsbD 0

/-- MP, bit 1 of the MSW (10_state.md R40). -/
def State.mp (s : State) : Bool := s.msw.getLsbD 1

/-- EM, bit 2 of the MSW (10_state.md R40). -/
def State.em (s : State) : Bool := s.msw.getLsbD 2

/-- TS, bit 3 of the MSW (10_state.md R40). -/
def State.ts (s : State) : Bool := s.msw.getLsbD 3

/-- The top of stack of the 80287, bits 13-11 of the status word (10_state.md R49; their place is PRESUMED, log entry 37). -/
def Numeric.top (n : Numeric) : BitVec 3 := n.status.extractLsb' 11 3

/-- The error masks of the 80287, the low six bits of the control word (10_state.md R49). -/
def Numeric.masks (n : Numeric) : BitVec 6 := n.control.extractLsb' 0 6

/-- CPL: the dpl of the CS entry in protected mode, 0 in real mode (10_state.md R45). -/
def State.cpl (s : State) : BitVec 2 := if s.prot then s.cs.cache.dpl else 0#2

/-- `seg[s]` (10_state.md R41). -/
def State.seg (s : State) : SegReg → Segment
  | .es => s.es
  | .cs => s.cs
  | .ss => s.ss
  | .ds => s.ds

/-- `seg[s] <- g`. -/
def State.setSeg (s : State) (r : SegReg) (g : Segment) : State :=
  match r with
  | .es => { s with es := g }
  | .cs => { s with cs := g }
  | .ss => { s with ss := g }
  | .ds => { s with ds := g }

/-- `x[SP] <- v`. -/
def State.setSp (s : State) (v : Word) : State := { s with regs := { s.regs with sp := v } }

/-- The IOPL rule (43_io_and_lock.md R210): exception 13 with error code 0 in protected mode when `CPL > IOPL`. -/
def ioplCheck (s : State) : Try Unit := require (!(s.prot && decide (s.flags.iopl < s.cpl))) protectionFault

/-! ### Physical memory -/

/-- The size of the physical space, 16 Mbytes (20_memory.md R71). -/
def physicalSize : Nat := 0x1000000

/-- What memory holds at an address; a byte that nothing has written reads 00H (log entry 2). -/
def Memory.read : Memory → Nat → Byte
  | [], _ => 0#8
  | (k, v) :: t, a => if k = a then v else Memory.read t a

/-- Memory after a byte is written; a byte of 00H is not listed (log entry 2). -/
def Memory.write : Memory → Nat → Byte → Memory
  | [], a, b => if b = 0#8 then [] else [(a, b)]
  | (k, v) :: t, a, b =>
    if a < k then (if b = 0#8 then (k, v) :: t else (a, b) :: (k, v) :: t)
    else if a = k then (if b = 0#8 then t else (a, b) :: t)
    else (k, v) :: Memory.write t a b

/-- Every address of the list is above `lo`, the addresses rise strictly, and no byte listed is 00H. -/
def Memory.wfAbove : Memory → Nat → Bool
  | [], _ => true
  | (k, v) :: t, lo => decide (lo ≤ k) && v != 0#8 && Memory.wfAbove t (k + 1)

/-- The canonical form of memory: addresses strictly rising, no entry equal to what an unlisted address reads as (log
entry 2). -/
def Memory.wf (m : Memory) : Bool := Memory.wfAbove m 0

/-- Whether no memory is behind an address (`MemMap`, 20_memory.md R90). -/
def State.absentAt (s : State) (a : Nat) : Bool := s.platform.absent.any fun r => decide (r.1 ≤ a) && decide (a ≤ r.2)

/-- Whether a write to an address is kept: it is neither absent nor ROM (`MemMap`, 00_scope.md R10, 20_memory.md R90; log entry
3). -/
def State.writableAt (s : State) (a : Nat) : Bool :=
  !s.absentAt a && !(s.platform.rom.any fun r => decide (r.1 ≤ a) && decide (a ≤ r.2))

/-- A byte of physical memory read for a purpose; of an absent address a free value (20_memory.md R90). -/
def State.byteFor (s : State) (p : Purpose) (a : Nat) : Byte :=
  if s.absentAt a then Config.absentByte s.freeIndex p a else s.mem.read a

/-- A word of physical memory read for a purpose, the low byte at the lower address (20_memory.md R84). -/
def State.wordFor (s : State) (p : Purpose) (a : Nat) : Word := wordOf (s.byteFor p a) (s.byteFor p (a + 1))

/-- Three bytes as a base, the low byte first (60_exceptions.md R301, 41_loadall.md R171). -/
def State.baseFor (s : State) (p : Purpose) (a : Nat) : Base := (s.byteFor p (a + 2) ++ s.byteFor p (a + 1)) ++ s.byteFor p a

/-- `MemRead(a, 1)` of data. -/
def State.byte (s : State) (a : Nat) : Byte := s.byteFor .data a

/-- `MemRead(a, 2)` of data (20_memory.md R84). -/
def State.word (s : State) (a : Nat) : Word := s.wordFor .data a

/-- Whether the prefetcher may hold a byte written now (`PrefetchWindow`, 20_memory.md R95). -/
def State.canBeStale (s : State) (a : Nat) : Bool :=
  match s.platform.prefetchWindow with
  | none => true
  | some w => decide (s.cs.cache.base.toNat + s.ip1 ≤ a) && decide (a < s.cs.cache.base.toNat + s.ip1 + w)

/-- `MemWrite(a, 1, v)`: the byte replaced joins what a fetch may still see (20_memory.md R95); a write to an absent
address or to ROM is discarded (R90). -/
def State.setByte (s : State) (a : Nat) (v : Byte) : State :=
  if s.writableAt a then
    { s with
      mem := s.mem.write a v
      superseded := if s.canBeStale a then (a, s.mem.read a) :: s.superseded else s.superseded }
  else s

/-- `MemWrite(a, 2, v)`: the byte at `a` and then the byte at `a + 1` (20_memory.md R84, R85). -/
def State.setWord (s : State) (a : Nat) (v : Word) : State := (s.setByte a (lowByte v)).setByte (a + 1) (highByte v)

/-- Refuses when the `n` bytes at `a` are not inside the physical space (20_memory.md R78 step 5, R81; log entry 12 for the
accesses that no segment checks). -/
def requirePhysical (a n : Nat) : Try Unit := require (decide (a + n ≤ physicalSize)) (.refuse .beyondPhysicalSpace)

/-- A word read by physical address, with no segment check. -/
def physicalWord (s : State) (p : Purpose) (a : Nat) : Try Word := do
  requirePhysical a 2
  pure (s.wordFor p a)

/-! ### The checked address -/

/-- The kinds of access of `Lin` (20_memory.md R78). -/
inductive Kind where
  | read
  | write
  | fetch
deriving DecidableEq, Repr

/-- The access writes. -/
def Kind.isWrite : Kind → Bool
  | .write => true
  | .read => false
  | .fetch => false

/-- The access reads data. -/
def Kind.isRead : Kind → Bool
  | .read => true
  | .write => false
  | .fetch => false

/-- The limit check, step 4 of `Lin` (20_memory.md R78): `off` to `off + n - 1` without wrap-around. -/
def SegCache.inLimit (c : SegCache) (off n : Nat) : Bool :=
  if c.expandDown then decide (c.limit.toNat < off) && decide (off + n - 1 ≤ 0xFFFF)
  else decide (off + n - 1 ≤ c.limit.toNat)

/-- `LimitFault(s)` (20_memory.md R87): in protected mode exception 12 through SS and 13 through the others, error code 0;
in real mode 13, and through SS a refusal (92_eei_decisions.md D32). -/
def limitFault (s : State) (r : SegReg) : Stop :=
  if r = .ss then (if s.prot then .trap .stackFault (some 0#16) else .refuse .realModeStackLimit)
  else protectionFault

/-- `Lin(r, off, n, k)`, the checked physical address (20_memory.md R78), its steps in the order written there. -/
def lin (s : State) (r : SegReg) (off n : Nat) (k : Kind) : Try Nat :=
  let c := (s.seg r).cache
  if !c.valid then .error (if r = .ss then .refuse .stackEntryInvalid else protectionFault)
  else if (c.code || !c.writable) && k.isWrite then
    .error (if r = .ss then .refuse .stackEntryNotWritable else protectionFault)
  else if (c.code && !c.readable) && k.isRead then .error protectionFault
  else if !c.inLimit off n then .error (limitFault s r)
  else do
    requirePhysical (c.base.toNat + off) n
    pure (c.base.toNat + off)

/-- The word at SS:`off`. -/
def stackWord (s : State) (off : Word) : Try Word := do
  let a ← lin s .ss off.toNat 2 .read
  pure (s.word a)

/-- The word at SS:SP+`k` of a return frame: a sum that is not reduced mod 2^16, so that a frame past offset FFFFH is outside
the limit (00_scope.md R12, 20_memory.md R79, 42_interrupt_and_flag_instructions.md R193). -/
def frameWord (s : State) (k : Nat) : Try Word := do
  let a ← lin s .ss (s.regs.sp.toNat + k) 2 .read
  pure (s.word a)

/-- `Push(v)` (00_scope.md R13). -/
def push (s : State) (v : Word) : Try State := do
  let a ← lin s .ss (s.regs.sp - 2#16).toNat 2 .write
  pure ((s.setWord a v).setSp (s.regs.sp - 2#16))

/-! ### The program counter -/

/-- `IP <- ip1` (10_state.md R34); the pc does not wrap at offset FFFFH (log entry 11). -/
def State.advance (s : State) : State :=
  { s with ip := BitVec.ofNat 16 s.ip1, ipPastEnd := decide (0x10000 ≤ s.ip1) }

/-- `IP <- t` of a control transfer, which flushes the prefetcher (20_memory.md R96). -/
def State.jump (s : State) (t : Word) : State := { s with ip := t, ipPastEnd := false, superseded := [] }

/-- The offset of the next byte to fetch: after the prefix bytes already read (10_state.md R33; log entries 7 and 11). -/
def State.fetchOffset (s : State) : Nat := s.ip.toNat + (if s.ipPastEnd then 0x10000 else 0) + s.prefixLen

/-- The end of an instruction or of an entry: no prefix is pending (log entry 7). -/
def State.finish (s : State) : State := { s with prefixLen := 0, override := none, lock := false }

/-! ### Descriptors and gates -/

/-- A cache entry from base, limit and access rights byte (41_loadall.md R171, 60_exceptions.md R301). -/
def SegCache.ofAccess (base : Base) (limit : Word) (access : Byte) : SegCache :=
  { base := base, limit := limit, valid := access.getLsbD 7, dpl := access.extractLsb' 5 2, code := access.getLsbD 3,
    writable := !access.getLsbD 3 && access.getLsbD 1, expandDown := !access.getLsbD 3 && access.getLsbD 2,
    readable := access.getLsbD 3 && access.getLsbD 1, conforming := access.getLsbD 3 && access.getLsbD 2 }

/-- An access rights byte with its bits in the places of 60_exceptions.md R301, from one of the platform's format (log entry
21). -/
def normalRights (f : RightsBits) (b : Byte) : Byte :=
  BitVec.ofBool (b.getLsbD f.present.val) ++ BitVec.ofBool (b.getLsbD f.dplHigh.val) ++ BitVec.ofBool (b.getLsbD f.dplLow.val) ++
    BitVec.ofBool (b.getLsbD f.segment.val) ++ BitVec.ofBool (b.getLsbD f.executable.val) ++ BitVec.ofBool (b.getLsbD f.expandDown.val) ++
    BitVec.ofBool (b.getLsbD f.writable.val) ++ BitVec.ofBool (b.getLsbD f.accessed.val)

/-- An access rights byte with its accessed bit set (60_exceptions.md R301). -/
def markAccessed (f : RightsBits) (b : Byte) : Byte := b ||| (1#8 <<< f.accessed.val)

/-- A segment descriptor that was read (60_exceptions.md R301; log entries 21 and 28): `access` has its bits in the places of
R301; `rightsAt` is the physical address of the access rights byte and `accessed` that byte with the accessed bit set. -/
structure Descriptor where
  limit : Word
  base : Base
  access : Byte
  rightsAt : Nat
  accessed : Byte
deriving DecidableEq, Repr

/-- P, bit 7 of the access rights byte (60_exceptions.md R301). -/
def Descriptor.present (d : Descriptor) : Bool := d.access.getLsbD 7

/-- DPL, bits 6-5 (60_exceptions.md R301). -/
def Descriptor.dpl (d : Descriptor) : BitVec 2 := d.access.extractLsb' 5 2

/-- A code segment: S = 1 and E = 1 (60_exceptions.md R301). -/
def Descriptor.isCode (d : Descriptor) : Bool := d.access.getLsbD 4 && d.access.getLsbD 3

/-- A data segment: S = 1 and E = 0 (60_exceptions.md R301). -/
def Descriptor.isData (d : Descriptor) : Bool := d.access.getLsbD 4 && !d.access.getLsbD 3

/-- A code segment with C = 1 (60_exceptions.md R301). -/
def Descriptor.isConforming (d : Descriptor) : Bool := d.isCode && d.access.getLsbD 2

/-- A code segment with R = 1 (60_exceptions.md R301). -/
def Descriptor.isReadableCode (d : Descriptor) : Bool := d.isCode && d.access.getLsbD 1

/-- A data segment with W = 1 (60_exceptions.md R301). -/
def Descriptor.isWritableData (d : Descriptor) : Bool := d.isData && d.access.getLsbD 1

/-- The descriptor at a physical address, in the platform's format (60_exceptions.md R301). -/
def State.descriptorAt (s : State) (p : Purpose) (a : Nat) : Descriptor :=
  let f := s.platform.format
  { limit := s.wordFor p (a + f.limit.val), base := s.baseFor p (a + f.base.val),
    access := normalRights f.bits (s.byteFor p (a + f.rights.val)), rightsAt := a + f.rights.val,
    accessed := markAccessed f.bits (s.byteFor p (a + f.rights.val)) }

/-- RPL, bits 1-0 of a selector (60_exceptions.md R300). -/
def rpl (sel : Word) : BitVec 2 := sel.extractLsb' 0 2

/-- The error code of a selector: its bits 1-0 cleared (60_exceptions.md R281, R304). -/
def selectorCode (sel : Word) : Word := sel &&& 0xFFFC#16

/-- The selector selects nothing: 0000H to 0003H (60_exceptions.md R300). -/
def isNullSelector (sel : Word) : Bool := decide (sel.extractLsb' 2 14 = 0#14)

/-- TI: whether a selector selects in the LDT (60_exceptions.md R300). -/
def isLocal (f : DescFormat) (sel : Word) : Bool := sel.getLsbD (f.tableBit.val + 2)

/-- The index of a selector: the bits above its RPL without TI (60_exceptions.md R300). -/
def selectorIndex (f : DescFormat) (sel : Word) : Nat :=
  sel.toNat / 4 / 2 ^ (f.tableBit.val + 1) * 2 ^ f.tableBit.val + sel.toNat / 4 % 2 ^ f.tableBit.val

/-- The offset of a selector's entry in its table (60_exceptions.md R300). -/
def State.entryOffset (s : State) (sel : Word) : Nat := selectorIndex s.platform.format sel * 8

/-- `ReadDescriptor(sel)` for a purpose (60_exceptions.md R300); where it fails it ends with `e`. -/
def readDescriptor (s : State) (p : Purpose) (sel : Word) (e : Stop) : Try Descriptor :=
  if isLocal s.platform.format sel then do
    require (s.ldtr.valid && decide (s.entryOffset sel + 7 ≤ s.ldtr.limit.toNat)) e
    requirePhysical (s.ldtr.base.toNat + s.entryOffset sel) 8
    pure (s.descriptorAt p (s.ldtr.base.toNat + s.entryOffset sel))
  else do
    require (decide (s.entryOffset sel + 7 ≤ s.gdtr.limit.toNat)) e
    requirePhysical (s.gdtr.base.toNat + s.entryOffset sel) 8
    pure (s.descriptorAt p (s.gdtr.base.toNat + s.entryOffset sel))

/-- Loads a segment register from a descriptor at a privilege level and sets the accessed bit of the descriptor in memory
(40_segment_register_access.md R145, 60_exceptions.md R301; log entry 15). The level is the descriptor's own but where CS is
loaded from a conforming segment (log entry 14). -/
def State.loadFrom (s : State) (r : SegReg) (val : Word) (d : Descriptor) (level : BitVec 2) : State :=
  (s.setByte d.rightsAt d.accessed).setSeg r
    { val := val, cache := { SegCache.ofAccess d.base d.limit d.access with dpl := level } }

/-- The gates an IDT can hold (60_exceptions.md R302). -/
inductive GateType where
  | task
  | interrupt
  | trap
deriving DecidableEq, Repr

/-- A gate of the IDT (60_exceptions.md R302); `type` is `none` for an entry that is no gate. -/
structure Gate where
  offset : Word
  selector : Word
  present : Bool
  dpl : BitVec 2
  type : Option GateType
deriving DecidableEq, Repr

/-- The type of a gate, from bits 4-0 of its access byte: with S = 1 an entry is no gate (60_exceptions.md R302; log entry
18). -/
def gateTypeOf (f : DescFormat) (bits : BitVec 5) : Option GateType :=
  if bits = f.taskGate then some .task
  else if bits = f.interruptGate then some .interrupt
  else if bits = f.trapGate then some .trap
  else none

/-- The gate at a physical address, in the platform's format (60_exceptions.md R302). -/
def State.gateAt (s : State) (p : Purpose) (a : Nat) : Gate :=
  let f := s.platform.format
  let access := normalRights f.bits (s.byteFor p (a + f.gateRights.val))
  { offset := s.wordFor p (a + f.gateOffset.val), selector := s.wordFor p (a + f.gateSelector.val), present := access.getLsbD 7,
    dpl := access.extractLsb' 5 2, type := gateTypeOf f (access.extractLsb' 0 5) }

/-- `ReadGate(n)` for a purpose (60_exceptions.md R302); where it raises exception 13 it ends with `e` (log entry 19). -/
def readGate (s : State) (p : Purpose) (n : Nat) (e : Stop) : Try Gate := do
  require (decide (8 * n + 7 ≤ s.idtr.limit.toNat)) e
  requirePhysical (s.idtr.base.toNat + 8 * n) 8
  require (s.gateAt p (s.idtr.base.toNat + 8 * n)).type.isSome e
  pure (s.gateAt p (s.idtr.base.toNat + 8 * n))

/-- The error code of an IDT vector: IDT bit set, EXT bit `ext` (60_exceptions.md R304). -/
def vectorCode (f : DescFormat) (n : Nat) (ext : Bool) : Word :=
  BitVec.ofNat 16 (n * 2 ^ f.codeIndex.val + 2 ^ f.codeIdt.val + ext.toNat * 2 ^ f.codeExt.val)

/-- Exception 13 with the error code of an IDT vector (60_exceptions.md R302, R304). -/
def State.vectorFault (s : State) (n : Nat) (ext : Bool) : Stop :=
  .trap .generalProtection (some (vectorCode s.platform.format n ext))

/-! ### Entering a handler -/

/-- `EnterReal(n, ret_ip)`, entry through the real-mode table, whose entry is read for a purpose (60_exceptions.md R308). -/
def enterReal (s : State) (p : Purpose) (n : Nat) (retIp : Word) : Try State := do
  require (decide (4 * n + 3 ≤ s.idtr.limit.toNat)) (.refuse .vectorOutsideTable)
  requirePhysical (s.idtr.base.toNat + 4 * n) 4
  let off := s.wordFor p (s.idtr.base.toNat + 4 * n)
  let sg := s.wordFor p (s.idtr.base.toNat + 4 * n + 2)
  let s1 ← push s s.flags.toWord
  let s2 ← push s1 s.cs.val
  let s3 ← push s2 retIp
  pure ({ s3 with
    flags := { s3.flags with ie := false, tf := false }
    cs := { val := sg, cache := { s3.cs.cache with base := sg.setWidth 24 <<< 4 } } }.jump off)

/-- Where the TSS holds the SP of a level (60_exceptions.md R303). -/
def State.innerSpAt (s : State) (level : BitVec 2) : Nat :=
  s.tr.base.toNat + s.platform.format.innerSp + s.platform.format.innerStride * level.toNat

/-- Where the TSS holds the SS of a level (60_exceptions.md R303). -/
def State.innerSsAt (s : State) (level : BitVec 2) : Nat :=
  s.tr.base.toNat + s.platform.format.innerSs + s.platform.format.innerStride * level.toNat

/-- The change to the stack of a more privileged level: SS and SP from the TSS, and the old SS and SP pushed on it
(60_exceptions.md R305). -/
def switchStack (s : State) (level : BitVec 2) : Try State := do
  let sp ← physicalWord s .innerPointer (s.innerSpAt level)
  let ss ← physicalWord s .innerPointer (s.innerSsAt level)
  let d ← readDescriptor s .innerStack ss (.refuse .innerStackSegment)
  require (d.present && d.isWritableData && decide (d.dpl = level) && decide (rpl ss = level)) (.refuse .innerStackSegment)
  let s1 := (s.loadFrom .ss ss d level).setSp sp
  let s2 ← push s1 s.ss.val
  push s2 s.regs.sp

/-- `EnterGate(g, n, ret_ip, ec)`, entry through an interrupt or trap gate (60_exceptions.md R305). -/
def enterGate (s : State) (g : Gate) (retIp : Word) (ec : Option Word) : Try State := do
  require (!decide (g.type = some GateType.task)) (.refuse .taskGate)
  require g.present (.refuse .gateNotPresent)
  let d ← readDescriptor s .handler g.selector (.refuse .handlerSegment)
  require (d.present && d.isCode && decide (d.dpl ≤ s.cpl)) (.refuse .handlerSegment)
  let inner := !d.isConforming && decide (d.dpl < s.cpl)
  let level := if inner then d.dpl else s.cpl
  let s1 ← if inner then switchStack s level else pure s
  let s2 ← push s1 s.flags.toWord
  let s3 ← push s2 s.cs.val
  let s4 ← push s3 retIp
  let s5 ← match ec with
    | some c => push s4 c
    | none => pure s4
  require (decide (g.offset ≤ d.limit)) (.refuse .handlerOffset)
  let s6 := s5.loadFrom .cs ((g.selector &&& 0xFFFC#16) ||| level.setWidth 16) d level
  pure ({ s6 with
    flags := { s6.flags with tf := false, nt := false, ie := s6.flags.ie && !decide (g.type = some GateType.interrupt) } }.jump g.offset)

/-- An exception inside an entry is refused and not turned into a second exception (60_exceptions.md R305, R312; log entry
19). -/
def entering (t : Try State) : Try State :=
  match t with
  | .ok s => .ok s
  | .error (.trap _ _) => .error (.refuse .faultDuringEntry)
  | .error (.trapIn _ _ _) => .error (.refuse .faultDuringEntry)
  | .error (.refuse r) => .error (.refuse r)

/-- Delivers exception `x` with the return address IP: through the protected IDT with no DPL test and with its error code
(42_interrupt_and_flag_instructions.md R183, 60_exceptions.md R305), or through the real-mode table with none (R286,
R308). -/
def deliver (s : State) (x : Exc) (ec : Option Word) : Try State :=
  entering (
    if s.prot then do
      let g ← readGate s .exceptionVector x.vector (.refuse .faultDuringEntry)
      enterGate s g s.ip ec
    else enterReal s .exceptionVector x.vector s.ip)

/-- The `INT n` entry with return address `ip1` (42_interrupt_and_flag_instructions.md R180, R182). -/
def softwareInterrupt (s : State) (n : Nat) : Try State :=
  if s.prot then do
    let g ← readGate s .interruptVector n (s.vectorFault n false)
    require (!decide (g.dpl < s.cpl)) (s.vectorFault n false)
    entering (enterGate s g (BitVec.ofNat 16 s.ip1) none)
  else entering (enterReal s .interruptVector n (BitVec.ofNat 16 s.ip1))

/-- The entry of an accepted external interrupt, with no DPL test (60_exceptions.md R290, R302). -/
def externalInterrupt (s : State) (n : Nat) : Try State :=
  if s.prot then do
    let g ← readGate s .interruptVector n (s.vectorFault n true)
    entering (enterGate s g s.ip none)
  else entering (enterReal s .interruptVector n s.ip)

/-- Taking an exception in the state at the trap: the handler is entered in the same step (log entry 6). -/
def takeException (s : State) (x : Exc) (ec : Option Word) : Out :=
  match deliver s x ec with
  | .ok s' => .next s'.finish
  | .error (.refuse r) => .refused r
  | .error (.trap _ _) => .refused .faultDuringEntry
  | .error (.trapIn _ _ _) => .refused .faultDuringEntry

/-- The outcome of an instruction that ends in `e`: an exception is taken in the state before the instruction
(60_exceptions.md R283) unless `e` carries another. -/
def endWith (s : State) (e : Stop) : Out :=
  match e with
  | .trap x ec => takeException s x ec
  | .trapIn s' x ec => takeException s' x ec
  | .refuse r => .refused r

/-- The outcome of an instruction in state `s`. -/
def complete (s : State) (t : Try State) : Out :=
  match t with
  | .ok s' => .next s'.finish
  | .error e => endWith s e

/-! ### Loading a segment register -/

/-- `LoadSeg(r, v)` in real mode: the value and the base, no other field (40_segment_register_access.md R141). -/
def loadSegReal (s : State) (r : SegReg) (v : Word) : State :=
  s.setSeg r { val := v, cache := { (s.seg r).cache with base := v.setWidth 24 <<< 4 } }

/-- The checks of a load of SS at a privilege level (40_segment_register_access.md R145). -/
def stackSegmentChecks (d : Descriptor) (v : Word) (level : BitVec 2) : Try Unit := do
  require (decide (rpl v = level) && d.isWritableData && decide (d.dpl = level))
    (.trap .generalProtection (some (selectorCode v)))
  require d.present (.trap .stackFault (some (selectorCode v)))

/-- The checks of a load of DS or ES (40_segment_register_access.md R144, R145; log entry 17). -/
def dataSegmentChecks (d : Descriptor) (v : Word) (cpl : BitVec 2) : Try Unit := do
  require (!decide (d.dpl < cpl)) (.trap .generalProtection (some (selectorCode v)))
  require (d.isData || d.isReadableCode) (.trap .generalProtection (some (selectorCode v)))
  require (d.isConforming || !(decide (d.dpl < cpl) || decide (d.dpl < rpl v)))
    (.trap .generalProtection (some (selectorCode v)))
  require d.present (.trap .segmentNotPresent (some (selectorCode v)))

/-- A load of SS checked at a privilege level, its descriptor read for a purpose (40_segment_register_access.md R145,
42_interrupt_and_flag_instructions.md R193). -/
def loadStackSegment (s : State) (p : Purpose) (v : Word) (level : BitVec 2) : Try State := do
  require (!isNullSelector v) protectionFault
  let d ← readDescriptor s p v (.trap .generalProtection (some (selectorCode v)))
  stackSegmentChecks d v level
  pure (s.loadFrom .ss v d d.dpl)

/-- A load of DS or ES in protected mode; a null selector marks the entry invalid and raises nothing
(40_segment_register_access.md R144, R145). -/
def loadDataSegment (s : State) (r : SegReg) (v : Word) : Try State :=
  if isNullSelector v then .ok (s.setSeg r { val := v, cache := { (s.seg r).cache with valid := false } })
  else do
    let d ← readDescriptor s .loadedSegment v (.trap .generalProtection (some (selectorCode v)))
    dataSegmentChecks d v s.cpl
    pure (s.loadFrom r v d d.dpl)

/-- `LoadSeg(r, v)` for ES, SS and DS (40_segment_register_access.md R141, R144, R145). -/
def loadSeg (s : State) (r : SegReg) (v : Word) : Try State :=
  if s.prot then (if r = .ss then loadStackSegment s .loadedSegment v s.cpl else loadDataSegment s r v)
  else .ok (loadSegReal s r v)

/-- After a load of SS no interrupt is accepted until the next instruction has finished (40_segment_register_access.md
R140, R142). -/
def State.holdOff (s : State) (r : SegReg) : State := { s with intShadow := s.intShadow || decide (r = .ss) }

/-! ### Returning from a handler -/

/-- `LoadFlags(v)` with the level of the program that executes POPF or IRET (42_interrupt_and_flag_instructions.md R189). -/
def State.loadFlags (s : State) (cpl : BitVec 2) (v : Word) : State :=
  { s with flags := s.flags.load s.prot cpl s.platform.realModeHighFlags v }

/-- IRET in real mode (42_interrupt_and_flag_instructions.md R193). -/
def returnReal (s : State) : Try State := do
  let ip ← stackWord s s.regs.sp
  let cs ← stackWord s (s.regs.sp + 2#16)
  let v ← stackWord s (s.regs.sp + 4#16)
  pure (((loadSegReal (s.setSp (s.regs.sp + 6#16)) .cs cs).loadFlags 0#2 v).jump ip)

/-- The checks of the code segment that IRET returns to, in the order they are written: a code segment, present, the level
(42_interrupt_and_flag_instructions.md R193, 92_eei_decisions.md D7). -/
def returnCodeChecks (d : Descriptor) (cs : Word) : Try Unit := do
  require d.isCode (.trap .generalProtection (some (selectorCode cs)))
  require d.present (.trap .segmentNotPresent (some (selectorCode cs)))
  require (if d.isConforming then decide (d.dpl ≤ rpl cs) else decide (d.dpl = rpl cs))
    (.trap .generalProtection (some (selectorCode cs)))

/-- After a return to an outer level DS or ES becomes null when the new level may not use it
(42_interrupt_and_flag_instructions.md R193). -/
def dropInner (g : Segment) (level : BitVec 2) : Segment :=
  if (!g.cache.code || !g.cache.conforming) && decide (g.cache.dpl < level) then
    { val := 0#16, cache := { g.cache with valid := false } }
  else g

/-- SP and, on a return to an outer level, SS, DS and ES (42_interrupt_and_flag_instructions.md R193; log entry 33). -/
def returnStack (s : State) (level : BitVec 2) : Try State :=
  if level = s.cpl then .ok (s.setSp (s.regs.sp + 6#16))
  else do
    let sp ← frameWord s 6
    let ss ← frameWord s 8
    let s1 ← loadStackSegment s .returnStack ss level
    pure { s1.setSp sp with ds := dropInner s1.ds level, es := dropInner s1.es level }

/-- IRET in protected mode with NT = 0 (42_interrupt_and_flag_instructions.md R193). -/
def returnProtected (s : State) : Try State := do
  let ip ← frameWord s 0
  let cs ← frameWord s 2
  let v ← frameWord s 4
  require (!(isNullSelector cs || decide (rpl cs < s.cpl))) (.trap .generalProtection (some (selectorCode cs)))
  let d ← readDescriptor s .returnCode cs (.trap .generalProtection (some (selectorCode cs)))
  returnCodeChecks d cs
  let s1 ← returnStack s (rpl cs)
  require (decide (ip ≤ d.limit)) protectionFault
  pure (((s1.loadFrom .cs cs d (rpl cs)).loadFlags s.cpl v).jump ip)

/-- IRET in protected mode with NT = 1: the back link of the current TSS (42_interrupt_and_flag_instructions.md R193,
R195). -/
def returnNested (s : State) : Try State := do
  let link ← physicalWord s .backLink (s.tr.base.toNat + s.platform.format.backLink)
  require (!decide (link = 0#16)) protectionFault
  .error (.refuse .taskSwitch)

/-- IRET (42_interrupt_and_flag_instructions.md R193). -/
def returnFromHandler (s : State) : Try State :=
  if !s.prot then returnReal s
  else if s.flags.nt then returnNested s
  else returnProtected s

/-! ### Platform and reset -/

/-- The counter of the free values, advanced with each fetch (log entry 4). -/
def State.tick (s : State) : State := { s with freeIndex := s.freeIndex + 1 }

/-- Records a port access (20_memory.md R98). -/
def State.logPort (s : State) (p : PortAccess) : State := { s with ioLog := s.ioLog ++ [p] }

/-- RESET of the 80286: every piece of processor state takes its reset value; memory, the 80287, the environment and the
platform stay (70_reset_and_hazards.md R331, 10_state.md R53; log entries 1 and 26). -/
def State.afterReset (s : State) : State :=
  { State.reset with
    numeric := s.numeric, mem := s.mem, ioLog := s.ioLog, inputs := s.inputs, platform := s.platform,
    freeIndex := s.freeIndex }

end Sys2Proof.Machine
end

