-- ==== Sys2Proof/Machine/Operands.lean ====
section
/-! DEFINITION. Every operand form: the address of a memory operand, reading and writing an r/m operand of either size,
the pair dividends (30_encoding.md R115 to R117, 20_memory.md R77). -/

namespace Sys2Proof.Machine

/-- The register part of a memory operand's offset (30_encoding.md R116). -/
def BaseForm.value (r : Regs) : BaseForm → Word
  | .bxSi => r.bx + r.si
  | .bxDi => r.bx + r.di
  | .bpSi => r.bp + r.si
  | .bpDi => r.bp + r.di
  | .si => r.si
  | .di => r.di
  | .bp => r.bp
  | .bx => r.bx

/-- The displacement as a word: a `disp8` is sign-extended (30_encoding.md R117). -/
def Disp.value : Disp → Word
  | .none => 0#16
  | .d8 d => d.signExtend 16
  | .d16 d => d

/-- The effective offset, all sums mod 2^16 (30_encoding.md R116). -/
def effectiveOffset (r : Regs) : MemOperand → Word
  | .direct d => d
  | .based b d => BaseForm.value r b + Disp.value d

/-- The default segment register: SS where BP takes part, DS otherwise (30_encoding.md R116). -/
def defaultSegment : MemOperand → SegReg
  | .direct _ => .ds
  | .based .bxSi _ => .ds
  | .based .bxDi _ => .ds
  | .based .bpSi _ => .ss
  | .based .bpDi _ => .ss
  | .based .si _ => .ds
  | .based .di _ => .ds
  | .based .bp _ => .ss
  | .based .bx _ => .ds

/-- The segment register a memory operand uses: the last segment prefix or the default (20_memory.md R77, 30_encoding.md
R112). -/
def State.operandSegment (s : State) (m : MemOperand) : SegReg := s.override.getD (defaultSegment m)

/-- The checked physical address of a memory operand (30_encoding.md R116). -/
def operandAddress (s : State) (m : MemOperand) (n : Nat) (k : Kind) : Try Nat :=
  lin s (s.operandSegment m) (effectiveOffset s.regs m).toNat n k

/-- An operand size: its registers, how many bytes it has and how they lie in memory, and an undefined value of it. -/
structure OpSize (ρ : Type) (w : Nat) where
  get : Regs → ρ → BitVec w
  set : Regs → ρ → BitVec w → Regs
  bytes : Nat
  load : State → Nat → BitVec w
  store : State → Nat → BitVec w → State
  undefined : Nat → BitVec w

/-- Byte operands (10_state.md R31, 20_memory.md R86). -/
def size8 : OpSize Reg8 8 :=
  { get := Regs.get8, set := Regs.set8, bytes := 1, load := State.byte, store := State.setByte,
    undefined := Config.undefinedByte }

/-- Word operands (10_state.md R30, 20_memory.md R84, R86). -/
def size16 : OpSize Reg16 16 :=
  { get := Regs.get16, set := Regs.set16, bytes := 2, load := State.word, store := State.setWord,
    undefined := Config.undefinedWord }

/-- Writes a register of either size. -/
def OpSize.setReg {ρ : Type} {w : Nat} (z : OpSize ρ w) (s : State) (r : ρ) (v : BitVec w) : State :=
  { s with regs := z.set s.regs r v }

/-- The value of an r/m operand (30_encoding.md R115). -/
def OpSize.readRm {ρ : Type} {w : Nat} (z : OpSize ρ w) (s : State) : Rm ρ → Try (BitVec w)
  | .reg r => .ok (z.get s.regs r)
  | .mem m => do
    let a ← operandAddress s m z.bytes .read
    pure (z.load s a)

/-- Stores to an r/m operand that is not read (40_segment_register_access.md R146, R148). -/
def OpSize.writeRm {ρ : Type} {w : Nat} (z : OpSize ρ w) (s : State) (o : Rm ρ) (v : BitVec w) : Try State :=
  match o with
  | .reg r => .ok (z.setReg s r v)
  | .mem m => do
    let a ← operandAddress s m z.bytes .write
    pure (z.store s a v)

/-- The state at the trap when the write check of a read-modify-write operand fails: `s'` instead of the state before the
instruction (20_memory.md R89). -/
def notRestartable {α : Type} (s' : State) (t : Try α) : Try α :=
  match t with
  | .ok a => .ok a
  | .error (.trap x ec) => .error (.trapIn s' x ec)
  | .error (.trapIn s1 x ec) => .error (.trapIn s1 x ec)
  | .error (.refuse r) => .error (.refuse r)

/-- The dividend DX:AX (10_state.md R32). -/
def Regs.dxAx (r : Regs) : BitVec 32 := r.dx ++ r.ax

end Sys2Proof.Machine
end

