-- ==== Sys2Proof/Machine/Arithmetic.lean ====
section
/-! DEFINITION. PUSH SP, divide, XCHG, ADC, SBB, NOP and JMP (45_integer_discrepancies.md R250, R262 to R272). -/

namespace Sys2Proof.Machine

/-- `PUSH SP`: the value of SP before the instruction is stored (45_integer_discrepancies.md R250). -/
def execPushSp (s : State) : Out :=
  complete s (do
    let s1 ← push s s.regs.sp
    pure s1.advance)

/-! ### ADC and SBB -/

/-- ADC or SBB with an r/m destination: the operand is read, then the write is checked (45_integer_discrepancies.md R266,
R268, R269). -/
def carryRm {ρ : Type} {w : Nat} (z : OpSize ρ w) (op : CarryOp) (s : State) (dst : Rm ρ) (b : BitVec w) : Try State :=
  match dst with
  | .reg r =>
    .ok ({ z.setReg s r (op.result (z.get s.regs r) b s.flags.cf) with flags := op.flags s.flags (z.get s.regs r) b }.advance)
  | .mem m => do
    let ar ← operandAddress s m z.bytes .read
    let aw ← notRestartable { s with flags := s.flags.undefinedSix s.freeIndex } (operandAddress s m z.bytes .write)
    pure ({ z.store s aw (op.result (z.load s ar) b s.flags.cf) with flags := op.flags s.flags (z.load s ar) b }.advance)

/-- ADC or SBB with a register destination and an r/m source (45_integer_discrepancies.md R268, R269). -/
def carryReg {ρ : Type} {w : Nat} (z : OpSize ρ w) (op : CarryOp) (s : State) (dst : ρ) (src : Rm ρ) : Try State := do
  let b ← z.readRm s src
  carryRm z op s (.reg dst) b

/-- `ADC r/m8, r8` (45_integer_discrepancies.md R268). -/
def execAdcRm8R8 (dst : Rm Reg8) (src : Reg8) (s : State) : Out :=
  complete s (carryRm size8 .adc s dst (s.regs.get8 src))

/-- `ADC r/m16, r16` (45_integer_discrepancies.md R268). -/
def execAdcRm16R16 (dst : Rm Reg16) (src : Reg16) (s : State) : Out :=
  complete s (carryRm size16 .adc s dst (s.regs.get16 src))

/-- `ADC r8, r/m8` (45_integer_discrepancies.md R268). -/
def execAdcR8Rm8 (dst : Reg8) (src : Rm Reg8) (s : State) : Out :=
  complete s (carryReg size8 .adc s dst src)

/-- `ADC r16, r/m16` (45_integer_discrepancies.md R268). -/
def execAdcR16Rm16 (dst : Reg16) (src : Rm Reg16) (s : State) : Out :=
  complete s (carryReg size16 .adc s dst src)

/-- `ADC AL, imm8` (45_integer_discrepancies.md R268). -/
def execAdcAlImm8 (imm : Byte) (s : State) : Out :=
  complete s (carryRm size8 .adc s (.reg .al) imm)

/-- `ADC AX, imm16` (45_integer_discrepancies.md R268). -/
def execAdcAxImm16 (imm : Word) (s : State) : Out :=
  complete s (carryRm size16 .adc s (.reg .ax) imm)

/-- `ADC r/m8, imm8` (45_integer_discrepancies.md R268). -/
def execAdcRm8Imm8 (dst : Rm Reg8) (imm : Byte) (s : State) : Out :=
  complete s (carryRm size8 .adc s dst imm)

/-- `ADC r/m16, imm16` (45_integer_discrepancies.md R268). -/
def execAdcRm16Imm16 (dst : Rm Reg16) (imm : Word) (s : State) : Out :=
  complete s (carryRm size16 .adc s dst imm)

/-- `ADC r/m16, sign-extended imm8` (45_integer_discrepancies.md R268). -/
def execAdcRm16SextImm8 (dst : Rm Reg16) (imm : Byte) (s : State) : Out :=
  complete s (carryRm size16 .adc s dst (imm.signExtend 16))

/-- `SBB r/m8, r8` (45_integer_discrepancies.md R269). -/
def execSbbRm8R8 (dst : Rm Reg8) (src : Reg8) (s : State) : Out :=
  complete s (carryRm size8 .sbb s dst (s.regs.get8 src))

/-- `SBB r/m16, r16` (45_integer_discrepancies.md R269). -/
def execSbbRm16R16 (dst : Rm Reg16) (src : Reg16) (s : State) : Out :=
  complete s (carryRm size16 .sbb s dst (s.regs.get16 src))

/-- `SBB r8, r/m8` (45_integer_discrepancies.md R269). -/
def execSbbR8Rm8 (dst : Reg8) (src : Rm Reg8) (s : State) : Out :=
  complete s (carryReg size8 .sbb s dst src)

/-- `SBB r16, r/m16` (45_integer_discrepancies.md R269). -/
def execSbbR16Rm16 (dst : Reg16) (src : Rm Reg16) (s : State) : Out :=
  complete s (carryReg size16 .sbb s dst src)

/-- `SBB AL, imm8` (45_integer_discrepancies.md R269). -/
def execSbbAlImm8 (imm : Byte) (s : State) : Out :=
  complete s (carryRm size8 .sbb s (.reg .al) imm)

/-- `SBB AX, imm16` (45_integer_discrepancies.md R269). -/
def execSbbAxImm16 (imm : Word) (s : State) : Out :=
  complete s (carryRm size16 .sbb s (.reg .ax) imm)

/-- `SBB r/m8, imm8` (45_integer_discrepancies.md R269). -/
def execSbbRm8Imm8 (dst : Rm Reg8) (imm : Byte) (s : State) : Out :=
  complete s (carryRm size8 .sbb s dst imm)

/-- `SBB r/m16, imm16` (45_integer_discrepancies.md R269). -/
def execSbbRm16Imm16 (dst : Rm Reg16) (imm : Word) (s : State) : Out :=
  complete s (carryRm size16 .sbb s dst imm)

/-- `SBB r/m16, sign-extended imm8` (45_integer_discrepancies.md R269). -/
def execSbbRm16SextImm8 (dst : Rm Reg16) (imm : Byte) (s : State) : Out :=
  complete s (carryRm size16 .sbb s dst (imm.signExtend 16))

/-! ### XCHG -/

/-- `XCHG` of an r/m operand and a register (45_integer_discrepancies.md R266, R267). -/
def exchange {ρ : Type} {w : Nat} (z : OpSize ρ w) (s : State) (dst : Rm ρ) (src : ρ) : Try State :=
  match dst with
  | .reg r => .ok (z.setReg (z.setReg s r (z.get s.regs src)) src (z.get s.regs r)).advance
  | .mem m => do
    let ar ← operandAddress s m z.bytes .read
    let aw ← notRestartable (z.setReg s src (z.undefined s.freeIndex)) (operandAddress s m z.bytes .write)
    pure (z.setReg (z.store s aw (z.get s.regs src)) src (z.load s ar)).advance

/-- `XCHG r/m8, r8` (45_integer_discrepancies.md R267). -/
def execXchgRm8R8 (dst : Rm Reg8) (src : Reg8) (s : State) : Out := complete s (exchange size8 s dst src)

/-- `XCHG r/m16, r16` (45_integer_discrepancies.md R267). -/
def execXchgRm16R16 (dst : Rm Reg16) (src : Reg16) (s : State) : Out := complete s (exchange size16 s dst src)

/-- `XCHG AX, r16` (45_integer_discrepancies.md R267). -/
def execXchgAxR16 (src : Reg16) (s : State) : Out := complete s (exchange size16 s (.reg .ax) src)

/-! ### DIV and IDIV -/

/-- The end of a divide: quotient and remainder in range, or the divide error, which leaves every register and flag as it
was (45_integer_discrepancies.md R262 to R264). The six arithmetic flags are undefined. -/
def divideEnd (s : State) (inRange : Bool) (r : Regs) : Try State := do
  require inRange (.trap .divideError none)
  pure { s with regs := r, flags := s.flags.undefinedSix s.freeIndex }.advance

/-- `DIV r/m8`: AX by the operand, unsigned (45_integer_discrepancies.md R263). -/
def execDivRm8 (src : Rm Reg8) (s : State) : Out :=
  complete s (do
    let d ← size8.readRm s src
    let n := s.regs.ax.toNat
    divideEnd s (decide (d.toNat ≠ 0) && decide (n / d.toNat ≤ 0xFF))
      { s.regs with ax := wordOf (BitVec.ofNat 8 (n / d.toNat)) (BitVec.ofNat 8 (n % d.toNat)) })

/-- `DIV r/m16`: DX:AX by the operand, unsigned (45_integer_discrepancies.md R263). -/
def execDivRm16 (src : Rm Reg16) (s : State) : Out :=
  complete s (do
    let d ← size16.readRm s src
    let n := s.regs.dxAx.toNat
    divideEnd s (decide (d.toNat ≠ 0) && decide (n / d.toNat ≤ 0xFFFF))
      { s.regs with ax := BitVec.ofNat 16 (n / d.toNat), dx := BitVec.ofNat 16 (n % d.toNat) })

/-- `IDIV r/m8`: AX by the operand, signed, the quotient truncated toward zero and -128 a result
(45_integer_discrepancies.md R262). -/
def execIdivRm8 (src : Rm Reg8) (s : State) : Out :=
  complete s (do
    let d ← size8.readRm s src
    let q := s.regs.ax.toInt.tdiv d.toInt
    divideEnd s (decide (d.toInt ≠ 0) && decide (-128 ≤ q) && decide (q ≤ 127))
      { s.regs with ax := wordOf (BitVec.ofInt 8 q) (BitVec.ofInt 8 (s.regs.ax.toInt - q * d.toInt)) })

/-- `IDIV r/m16`: DX:AX by the operand, signed, the quotient truncated toward zero and -32768 a result
(45_integer_discrepancies.md R262). -/
def execIdivRm16 (src : Rm Reg16) (s : State) : Out :=
  complete s (do
    let d ← size16.readRm s src
    let q := s.regs.dxAx.toInt.tdiv d.toInt
    divideEnd s (decide (d.toInt ≠ 0) && decide (-32768 ≤ q) && decide (q ≤ 32767))
      { s.regs with ax := BitVec.ofInt 16 q, dx := BitVec.ofInt 16 (s.regs.dxAx.toInt - q * d.toInt) })

/-! ### NOP and JMP -/

/-- `NOP` (45_integer_discrepancies.md R270). -/
def execNop (s : State) : Out := complete s (.ok s.advance)

/-- A near jump: the target is checked against the CS limit (45_integer_discrepancies.md R271). -/
def jumpNear (s : State) (rel : Word) : Try State := do
  require (decide (BitVec.ofNat 16 s.ip1 + rel ≤ s.cs.cache.limit)) protectionFault
  pure (s.jump (BitVec.ofNat 16 s.ip1 + rel))

/-- `JMP rel8` (45_integer_discrepancies.md R271). -/
def execJmpRel8 (rel : Byte) (s : State) : Out := complete s (jumpNear s (rel.signExtend 16))

/-- `JMP rel16` (45_integer_discrepancies.md R271). -/
def execJmpRel16 (rel : Word) (s : State) : Out := complete s (jumpNear s rel)

/-- `JMP ptr16:16`: real mode only (45_integer_discrepancies.md R272). -/
def execJmpFar (off seg : Word) (s : State) : Out :=
  complete s (do
    require (!s.prot) (.refuse .protectedFarTransfer)
    require (decide (off ≤ s.cs.cache.limit)) protectionFault
    pure ((loadSegReal s .cs seg).jump off))

end Sys2Proof.Machine
end

