-- ==== Sys2Proof/Machine/Interrupts.lean ====
section
/-! DEFINITION. INT, IRET and the flag-word instructions (42_interrupt_and_flag_instructions.md). -/

namespace Sys2Proof.Machine

/-- `INT imm8` (42_interrupt_and_flag_instructions.md R180). -/
def execIntImm8 (n : Byte) (s : State) : Out := complete s (softwareInterrupt s n.toNat)

/-- `INT 3` (42_interrupt_and_flag_instructions.md R181). -/
def execInt3 (s : State) : Out := complete s (softwareInterrupt s 3)

/-- `IRET` (42_interrupt_and_flag_instructions.md R193). -/
def execIret (s : State) : Out := complete s (returnFromHandler s)

/-- `PUSHF` (42_interrupt_and_flag_instructions.md R188). -/
def execPushf (s : State) : Out :=
  complete s (do
    let s1 ← push s s.flags.toWord
    pure s1.advance)

/-- `POPF` (42_interrupt_and_flag_instructions.md R190). -/
def execPopf (s : State) : Out :=
  complete s (do
    let v ← stackWord s s.regs.sp
    pure ((s.setSp (s.regs.sp + 2#16)).loadFlags s.cpl v).advance)

/-- IF written by STI or CLI. -/
def State.setIe (s : State) (b : Bool) : State := { s with flags := { s.flags with ie := b } }

/-- `STI` (42_interrupt_and_flag_instructions.md R196); it holds no interrupt off (log entry 24). -/
def execSti (s : State) : Out :=
  complete s (do
    ioplCheck s
    pure (s.setIe true).advance)

/-- `CLI` (42_interrupt_and_flag_instructions.md R197). -/
def execCli (s : State) : Out :=
  complete s (do
    ioplCheck s
    pure (s.setIe false).advance)

end Sys2Proof.Machine
end

