-- ==== Sys2Proof/Machine/Loadall.lean ====
section
/-! DEFINITION. LOADALL (41_loadall.md): the layout of its memory area is the platform's, by default that of R170 and R171
(log entry 21). -/

namespace Sys2Proof.Machine

/-- The access rights byte of a cache entry at a physical address of the memory area, its bits in the places of
60_exceptions.md R301 (41_loadall.md R171). -/
def imageRights (s : State) (a : Nat) : Byte :=
  normalRights s.platform.format.bits (s.byte (a + s.platform.loadall.rights.val))

/-- The base in a cache entry at a physical address of the memory area (41_loadall.md R171). -/
def imageBase (s : State) (a : Nat) : Base := s.baseFor .data (a + s.platform.loadall.base.val)

/-- The limit in a cache entry at a physical address of the memory area (41_loadall.md R171). -/
def imageLimit (s : State) (a : Nat) : Word := s.word (a + s.platform.loadall.limit.val)

/-- The 6-byte cache entry at a physical address of the memory area (41_loadall.md R171). -/
def imageCache (s : State) (a : Nat) : SegCache := SegCache.ofAccess (imageBase s a) (imageLimit s a) (imageRights s a)

/-- The 6-byte table register at a physical address of the memory area; its access byte is not used (41_loadall.md R171). -/
def imageTable (s : State) (a : Nat) : TableReg := { base := imageBase s a, limit := imageLimit s a }

/-- A selector and the 6-byte cache entry of LDTR or TR (41_loadall.md R170, R171). -/
def imageSystem (s : State) (val a : Nat) : SystemReg :=
  { val := s.word val, base := imageBase s a, limit := imageLimit s a, valid := (imageRights s a).getLsbD 7 }

/-- The MSW loaded: PE, once 1, stays 1 (41_loadall.md R160, R166). -/
def loadedMsw (s : State) : Word := s.word s.platform.loadall.msw ||| (s.msw &&& 0x0001#16)

/-- The state LOADALL loads from the memory area (41_loadall.md R160, R170). -/
def loadedState (s : State) : State :=
  let l := s.platform.loadall
  { s with
    regs :=
      { ax := s.word l.ax, cx := s.word l.cx, dx := s.word l.dx, bx := s.word l.bx, sp := s.word l.sp, bp := s.word l.bp,
        si := s.word l.si, di := s.word l.di }
    flags := Flags.ofWord (s.word l.flags)
    msw := loadedMsw s
    es := { val := s.word l.es, cache := imageCache s l.esEntry }
    cs := { val := s.word l.cs, cache := imageCache s l.csEntry }
    ss := { val := s.word l.ss, cache := imageCache s l.ssEntry }
    ds := { val := s.word l.ds, cache := imageCache s l.dsEntry }
    gdtr := imageTable s l.gdtr
    idtr := imageTable s l.idtr
    ldtr := imageSystem s l.ldt l.ldtEntry
    tr := imageSystem s l.tr l.tssEntry }

/-- Whether the memory area lies inside the physical space (20_memory.md R81): the words, and the entries of 6 bytes. The
default area does. -/
def imageInside (l : LoadallImage) : Bool :=
  ([l.msw, l.tr, l.flags, l.ip, l.ldt, l.ds, l.ss, l.cs, l.es, l.di, l.si, l.bp, l.sp, l.bx, l.dx, l.cx, l.ax].all
    fun a => decide (a + 2 ≤ physicalSize)) &&
  ([l.esEntry, l.csEntry, l.ssEntry, l.dsEntry, l.gdtr, l.ldtEntry, l.idtr, l.tssEntry].all
    fun a => decide (a + 6 ≤ physicalSize))

/-- `LOADALL` (41_loadall.md R160, R172): at level 0 or in real mode it loads every register, with no check of any value
(R163), and continues at the loaded IP. -/
def execLoadall (s : State) : Out :=
  complete s (do
    require (!(s.prot && decide (s.cpl ≠ 0#2))) protectionFault
    require (imageInside s.platform.loadall) (.refuse .beyondPhysicalSpace)
    pure ((loadedState s).jump (s.word s.platform.loadall.ip)))

end Sys2Proof.Machine
end

