-- ==== Sys2Proof/Machine/Numeric.lean ====
section
/-! DEFINITION. ESC, WAIT, FNINIT and FSETPM, and the 80287 as the 80286 sees it (44_numeric_coprocessor.md). What a numeric
instruction computes is a free value (`Numerics287`, R226; log entry 5). -/

namespace Sys2Proof.Machine

/-- Step 1 of every ESC: exception 7 when TS or EM is 1 (44_numeric_coprocessor.md R225, R238). -/
def escapeAvailable (s : State) : Try Unit := require (!(s.ts || s.em)) (.trap .extensionNotAvailable none)

/-- WAIT, and ESC other than FNINIT, are refused while the 80287 is stuck (44_numeric_coprocessor.md R229, R231). -/
def numericNotStuck (s : State) : Try Unit := require (!decide (s.numeric.busy = .stuck)) (.refuse .coprocessorStuck)

/-- The wait for the 80287 that WAIT and ESC make: refused when it is stuck, else it ends at once, and a pending error
raises exception 16 (44_numeric_coprocessor.md R225 step 2, R229 to R231). -/
def numericReady (s : State) : Try Unit := do
  numericNotStuck s
  require (!s.numeric.errorPending) (.trap .extensionError none)

/-- The address the 80287 stores of an instruction or operand: from the visible register value, in the form of its mode
(44_numeric_coprocessor.md R235, R236). -/
def numericAddress (m : Mode) (sel off : Word) : NumericAddress :=
  match m with
  | .real => .physical (BitVec.ofNat 20 (sel.toNat * 16 + off.toNat))
  | .prot => .virt sel off

/-- The state the 80287 is left in by a numeric instruction: its results are free values, an error is pending only if some
error is not masked (44_numeric_coprocessor.md R226, R230; 60_exceptions.md R287), and an instruction whose operand
overran a segment leaves it stuck (R229). -/
def numericAfter (s : State) (overrun : Bool) (fdp : NumericAddress) : Numeric :=
  { s.numeric with
    busy := if overrun then .stuck else .busy
    tags := Vector.ofFn fun i => Config.numericTag s.freeIndex i.val
    status := Config.numericStatus s.freeIndex
    control := Config.numericControl s.freeIndex
    errorPending := !overrun && Config.numericError s.freeIndex &&
      decide ((Config.numericControl s.freeIndex).extractLsb' 0 6 ≠ 0x3F#6)
    fip := numericAddress s.numeric.mode s.cs.val s.ip
    fdp := fdp }

/-- How many of `n` words from offset `off` on are inside the limit before the first that is not
(44_numeric_coprocessor.md R229). -/
def wordsInside (c : SegCache) (off : Nat) : Nat → Nat
  | 0 => 0
  | n + 1 => if c.inLimit off 2 then wordsInside c (off + 2) n + 1 else 0

/-- Stores `n` words of a numeric operand from physical address `a` on, the word numbers from `j` on
(44_numeric_coprocessor.md R227). -/
def storeNumericWords (s : State) (a j : Nat) : Nat → State
  | 0 => s
  | n + 1 => storeNumericWords (s.setWord a (Config.numericWord s.freeIndex j)) (a + 2) (j + 1) n

/-- The kind of access an ESC makes to its operand (44_numeric_coprocessor.md R225 step 3). -/
def escapeKind (op reg : BitVec 3) : Kind := if Config.numericStores op reg then .write else .read

/-- How many words of the operand are transferred (44_numeric_coprocessor.md R229). -/
def escapeWords (s : State) (op reg : BitVec 3) (m : MemOperand) : Nat :=
  wordsInside (s.seg (s.operandSegment m)).cache (effectiveOffset s.regs m).toNat (Config.numericMoreWords op reg + 1)

/-- Whether a later word of the operand is outside the segment, exception 9 (44_numeric_coprocessor.md R229). -/
def escapeOverruns (s : State) (op reg : BitVec 3) (m : MemOperand) : Bool :=
  decide (escapeWords s op reg m < Config.numericMoreWords op reg + 1)

/-- The transfer of an ESC's operand whose first word is at physical address `a`, and the state of the 80287 after it;
exception 9 becomes pending when a later word is outside the segment (44_numeric_coprocessor.md R227, R229). One that is
raised while another is pending is the same pending exception 9 (DESIGN CHOICE, log entry 34). -/
def escapeTransfer (s : State) (op reg : BitVec 3) (m : MemOperand) (a : Nat) : State :=
  let s1 := if Config.numericStores op reg then storeNumericWords s a 0 (escapeWords s op reg m) else s
  { s1 with
    numeric := numericAfter s (escapeOverruns s op reg m)
      (numericAddress s.numeric.mode (s.seg (s.operandSegment m)).val (effectiveOffset s.regs m))
    exc9Pending := s.exc9Pending || escapeOverruns s op reg m }

/-- `ESC` (44_numeric_coprocessor.md R225): the checks in their order, the stored addresses, the transfer, and the
80286 goes on while the 80287 computes. An ESC without a memory operand leaves the stored operand address as it is (DESIGN
CHOICE, log entry 32). -/
def execEsc (op reg : BitVec 3) (operand : Rm (BitVec 3)) (s : State) : Out :=
  complete s (do
    escapeAvailable s
    numericReady s
    match operand with
    | .reg _ => pure { s with numeric := numericAfter s false s.numeric.fdp }.advance
    | .mem m => do
      let a ← operandAddress s m 2 (escapeKind op reg)
      -- a later word can lie beyond the physical space only if the segment itself does
      require (!(decide (physicalSize < (s.seg (s.operandSegment m)).cache.base.toNat + 0x10000) &&
        decide (physicalSize < a + 2 * escapeWords s op reg m))) (.refuse .beyondPhysicalSpace)
      pure (escapeTransfer s op reg m a).advance)

/-- `WAIT` (44_numeric_coprocessor.md R231): it ends with the 80287 idle (log entry 30). -/
def execWait (s : State) : Out :=
  complete s (do
    require (!(s.ts && s.mp)) (.trap .extensionNotAvailable none)
    numericReady s
    pure { s with numeric := { s.numeric with busy := .idle } }.advance)

/-- A stored address that FNINIT may have changed or not (44_numeric_coprocessor.md R232, 92_eei_decisions.md D18);
`which` is 0 for `fip` and 1 for `fdp`. -/
def undefinedAddress (m : Mode) (index which : Nat) : NumericAddress :=
  match m with
  | .real => .physical (Config.numericPhysical index which)
  | .prot => .virt (Config.numericVirtual index (2 * which)) (Config.numericVirtual index (2 * which + 1))

/-- The 80287 after FNINIT (44_numeric_coprocessor.md R232): top of stack 0, every error masked; what FNINIT leaves in the other
bits of the status and control words the spec does not say, a free value (DESIGN CHOICE, log entry 37). -/
def numericInitialised (s : State) (m : Mode) : Numeric :=
  { mode := m, busy := .idle, tags := Vector.replicate 8 true, status := Config.numericStatus s.freeIndex &&& 0xC7FF#16,
    control := Config.numericControl s.freeIndex ||| 0x003F#16, errorPending := false,
    fip := undefinedAddress m s.freeIndex 0, fdp := undefinedAddress m s.freeIndex 1 }

/-- `FNINIT` (44_numeric_coprocessor.md R232): no wait, and the mode stays. -/
def execFninit (s : State) : Out :=
  complete s (do
    escapeAvailable s
    pure { s with numeric := numericInitialised s s.numeric.mode }.advance)

/-- `FSETPM` (44_numeric_coprocessor.md R233): no wait, but an ESC other than FNINIT, refused while the 80287 is stuck (R229);
the stored addresses stay as they are (log entry 27). -/
def execFsetpm (s : State) : Out :=
  complete s (do
    escapeAvailable s
    numericNotStuck s
    pure { s with numeric := { s.numeric with mode := .prot } }.advance)

/-- The RESET pin of the 80287: real mode and the state FNINIT gives (44_numeric_coprocessor.md R234,
70_reset_and_hazards.md R332). -/
def State.afterNumericReset (s : State) : State := { s with numeric := numericInitialised s .real }

end Sys2Proof.Machine
end

