-- ==== Sys2Proof/Machine/PortIo.lean ====
section
/-! DEFINITION. IN, OUT and the prefixes (43_io_and_lock.md, 30_encoding.md R112). -/

namespace Sys2Proof.Machine

/-- Whether the `n` ports from `port` on meet the reserved ports 00F8H to 00FFH (20_memory.md R99). -/
def meetsReserved (port : Word) (n : Nat) : Bool :=
  decide (port.toNat ≤ 0xFF) && decide (0xF8 ≤ port.toNat + n - 1)

/-- The checks of IN and OUT: IOPL first, then the reserved ports (20_memory.md R99, 43_io_and_lock.md R210). -/
def portCheck (s : State) (port : Word) (n : Nat) : Try Unit := do
  ioplCheck s
  require (!meetsReserved port n) (.refuse .reservedPort)

/-- `IN AL, port` (43_io_and_lock.md R211; log entry 29). -/
def inByte (s : State) (port : Word) : Try State := do
  portCheck s port 1
  let v := Config.portByte s.freeIndex port.toNat
  pure ((size8.setReg s .al v).logPort (.readByte port v)).advance

/-- `IN AX, port` (43_io_and_lock.md R211). -/
def inWord (s : State) (port : Word) : Try State := do
  portCheck s port 2
  let v := Config.portWord s.freeIndex port.toNat
  pure ((size16.setReg s .ax v).logPort (.readWord port v)).advance

/-- `OUT port, AL` (43_io_and_lock.md R212). -/
def outByte (s : State) (port : Word) : Try State := do
  portCheck s port 1
  pure (s.logPort (.writeByte port (s.regs.get8 .al))).advance

/-- `OUT port, AX` (43_io_and_lock.md R212). -/
def outWord (s : State) (port : Word) : Try State := do
  portCheck s port 2
  pure (s.logPort (.writeWord port s.regs.ax)).advance

/-- `IN AL, imm8` (43_io_and_lock.md R211). -/
def execInAlImm8 (port : Byte) (s : State) : Out := complete s (inByte s (port.setWidth 16))

/-- `IN AX, imm8` (43_io_and_lock.md R211). -/
def execInAxImm8 (port : Byte) (s : State) : Out := complete s (inWord s (port.setWidth 16))

/-- `IN AL, DX` (43_io_and_lock.md R211). -/
def execInAlDx (s : State) : Out := complete s (inByte s s.regs.dx)

/-- `IN AX, DX` (43_io_and_lock.md R211). -/
def execInAxDx (s : State) : Out := complete s (inWord s s.regs.dx)

/-- `OUT imm8, AL` (43_io_and_lock.md R212). -/
def execOutImm8Al (port : Byte) (s : State) : Out := complete s (outByte s (port.setWidth 16))

/-- `OUT imm8, AX` (43_io_and_lock.md R212). -/
def execOutImm8Ax (port : Byte) (s : State) : Out := complete s (outWord s (port.setWidth 16))

/-- `OUT DX, AL` (43_io_and_lock.md R212). -/
def execOutDxAl (s : State) : Out := complete s (outByte s s.regs.dx)

/-- `OUT DX, AX` (43_io_and_lock.md R212). -/
def execOutDxAx (s : State) : Out := complete s (outWord s s.regs.dx)

/-- A segment prefix: the last one counts, and the instruction still begins at IP (30_encoding.md R112; log entry 7). -/
def segmentPrefix (s : State) (r : SegReg) : Out :=
  .next { s with override := some r, prefixLen := s.prefixLen + 1 }

/-- The prefix `ES:` (30_encoding.md R112). -/
def execEsPrefix (s : State) : Out := segmentPrefix s .es

/-- The prefix `CS:` (30_encoding.md R112). -/
def execCsPrefix (s : State) : Out := segmentPrefix s .cs

/-- The prefix `SS:` (30_encoding.md R112). -/
def execSsPrefix (s : State) : Out := segmentPrefix s .ss

/-- The prefix `DS:` (30_encoding.md R112). -/
def execDsPrefix (s : State) : Out := segmentPrefix s .ds

/-- The prefix `LOCK`: the IOPL test, before the instruction does anything, and no other effect (43_io_and_lock.md
R216). The test comes before the bytes after F0H are fetched and decoded (DESIGN CHOICE, log entry 36). -/
def execLock (s : State) : Out :=
  match ioplCheck s with
  | .ok _ => .next { s with lock := true, prefixLen := s.prefixLen + 1 }
  | .error e => endWith s e

end Sys2Proof.Machine
end

