-- ==== Sys2Proof/Machine/SegmentAccess.lean ====
section
/-! DEFINITION. Segment register loads and reads, simple loads and stores (40_segment_register_access.md). -/

namespace Sys2Proof.Machine

/-- `POP` of a segment register: SP changes only after the load succeeds (40_segment_register_access.md R142). -/
def popSegment (s : State) (r : SegReg) : Try State := do
  let v ← stackWord s s.regs.sp
  let s1 ← loadSeg s r v
  pure ((s1.setSp (s.regs.sp + 2#16)).holdOff r).advance

/-- `POP ES` (40_segment_register_access.md R142). -/
def execPopEs (s : State) : Out := complete s (popSegment s .es)

/-- `POP SS` (40_segment_register_access.md R142). -/
def execPopSs (s : State) : Out := complete s (popSegment s .ss)

/-- `POP DS` (40_segment_register_access.md R142). -/
def execPopDs (s : State) : Out := complete s (popSegment s .ds)

/-- `MOV Sreg, r/m16` (40_segment_register_access.md R140); CS is not an instruction (30_encoding.md R122). -/
def execMovSregRm16 (dst : SegReg) (src : Rm Reg16) (s : State) : Out :=
  complete s (do
    require (!decide (dst = .cs)) (.refuse (.undecodable .movIntoCs))
    let v ← size16.readRm s src
    let s1 ← loadSeg s dst v
    pure (s1.holdOff dst).advance)

/-- `LES` and `LDS`: the destination register is written only after the load succeeds (40_segment_register_access.md
R143). -/
def loadFarPointer (s : State) (r : SegReg) (dst : Reg16) (src : MemOperand) : Try State := do
  let a ← operandAddress s src 2 .read
  let b ← lin s (s.operandSegment src) (effectiveOffset s.regs src + 2#16).toNat 2 .read
  let s1 ← loadSeg s r (s.word b)
  pure (size16.setReg s1 dst (s.word a)).advance

/-- `LES r16, m16:16` (40_segment_register_access.md R143). -/
def execLes (dst : Reg16) (src : MemOperand) (s : State) : Out := complete s (loadFarPointer s .es dst src)

/-- `LDS r16, m16:16` (40_segment_register_access.md R143). -/
def execLds (dst : Reg16) (src : MemOperand) (s : State) : Out := complete s (loadFarPointer s .ds dst src)

/-- `MOV r/m16, Sreg`: the visible value, whatever the cache entry holds (40_segment_register_access.md R146). -/
def execMovRm16Sreg (dst : Rm Reg16) (src : SegReg) (s : State) : Out :=
  complete s (do
    let s1 ← size16.writeRm s dst (s.seg src).val
    pure s1.advance)

/-- `MOV r, r/m` (40_segment_register_access.md R147). -/
def loadRegister {ρ : Type} {w : Nat} (z : OpSize ρ w) (s : State) (dst : ρ) (src : Rm ρ) : Try State := do
  let v ← z.readRm s src
  pure (z.setReg s dst v).advance

/-- `MOV r8, r/m8` (40_segment_register_access.md R147). -/
def execMovR8Rm8 (dst : Reg8) (src : Rm Reg8) (s : State) : Out := complete s (loadRegister size8 s dst src)

/-- `MOV r16, r/m16` (40_segment_register_access.md R147). -/
def execMovR16Rm16 (dst : Reg16) (src : Rm Reg16) (s : State) : Out := complete s (loadRegister size16 s dst src)

/-- `MOV r/m, r` (40_segment_register_access.md R148, R149). -/
def storeRegister {ρ : Type} {w : Nat} (z : OpSize ρ w) (s : State) (dst : Rm ρ) (src : ρ) : Try State := do
  let s1 ← z.writeRm s dst (z.get s.regs src)
  pure s1.advance

/-- `MOV r/m8, r8` (40_segment_register_access.md R148, R149). -/
def execMovRm8R8 (dst : Rm Reg8) (src : Reg8) (s : State) : Out := complete s (storeRegister size8 s dst src)

/-- `MOV r/m16, r16` (40_segment_register_access.md R148, R149). -/
def execMovRm16R16 (dst : Rm Reg16) (src : Reg16) (s : State) : Out := complete s (storeRegister size16 s dst src)

end Sys2Proof.Machine
end

