-- ==== Sys2Proof/Machine/Shifts.lean ====
section
/-! DEFINITION. The shifts and rotates (45_integer_discrepancies.md R251 to R260). -/

namespace Sys2Proof.Machine

/-- The state at the trap when the write check fails: the flags are undefined for the rotates through carry
(45_integer_discrepancies.md R266), the state is that before the instruction for the others (60_exceptions.md R284). -/
def shiftTrapState (op : ShiftOp) (s : State) : State :=
  if op.throughCarry then { s with flags := s.flags.undefinedCarryOverflow s.freeIndex } else s

/-- The end of a read-modify-write check with a masked count of 0: where the write check alone fails the case is refused
(45_integer_discrepancies.md R253; log entry 31). -/
def zeroCountCheck (t : Try Nat) : Try Unit :=
  match t with
  | .ok _ => .ok ()
  | .error (.trap _ _) => .error (.refuse .zeroCountWriteProtected)
  | .error (.trapIn _ _ _) => .error (.refuse .zeroCountWriteProtected)
  | .error (.refuse r) => .error (.refuse r)

/-- `SHIFT(op, dest, count)` (45_integer_discrepancies.md R253). -/
def shiftRm {ρ : Type} {w : Nat} (z : OpSize ρ w) (op : ShiftOp) (s : State) (dst : Rm ρ) (count : Byte) : Try State :=
  match dst with
  | .reg r =>
    if shiftCount count = 0 then .ok s.advance
    else
      .ok ({ z.setReg s r (shiftResult op s.flags (shiftCount count) (z.get s.regs r)) with
        flags := shiftFlags op s.flags s.freeIndex (shiftCount count) (z.get s.regs r) }.advance)
  | .mem m => do
    let ar ← operandAddress s m z.bytes .read
    if shiftCount count = 0 then do
      zeroCountCheck (operandAddress s m z.bytes .write)
      pure s.advance
    else do
      let aw ← notRestartable (shiftTrapState op s) (operandAddress s m z.bytes .write)
      pure ({ z.store s aw (shiftResult op s.flags (shiftCount count) (z.load s ar)) with
        flags := shiftFlags op s.flags s.freeIndex (shiftCount count) (z.load s ar) }.advance)

/-- `ROL r/m8, 1` (45_integer_discrepancies.md R254). -/
def execRolRm8One (dst : Rm Reg8) (s : State) : Out := complete s (shiftRm size8 .rol s dst 1#8)

/-- `ROL r/m8, CL` (45_integer_discrepancies.md R254). -/
def execRolRm8Cl (dst : Rm Reg8) (s : State) : Out := complete s (shiftRm size8 .rol s dst (s.regs.get8 .cl))

/-- `ROL r/m8, imm8` (45_integer_discrepancies.md R254). -/
def execRolRm8Imm8 (dst : Rm Reg8) (count : Byte) (s : State) : Out := complete s (shiftRm size8 .rol s dst count)

/-- `ROL r/m16, 1` (45_integer_discrepancies.md R254). -/
def execRolRm16One (dst : Rm Reg16) (s : State) : Out := complete s (shiftRm size16 .rol s dst 1#8)

/-- `ROL r/m16, CL` (45_integer_discrepancies.md R254). -/
def execRolRm16Cl (dst : Rm Reg16) (s : State) : Out := complete s (shiftRm size16 .rol s dst (s.regs.get8 .cl))

/-- `ROL r/m16, imm8` (45_integer_discrepancies.md R254). -/
def execRolRm16Imm8 (dst : Rm Reg16) (count : Byte) (s : State) : Out := complete s (shiftRm size16 .rol s dst count)

/-- `ROR r/m8, 1` (45_integer_discrepancies.md R255). -/
def execRorRm8One (dst : Rm Reg8) (s : State) : Out := complete s (shiftRm size8 .ror s dst 1#8)

/-- `ROR r/m8, CL` (45_integer_discrepancies.md R255). -/
def execRorRm8Cl (dst : Rm Reg8) (s : State) : Out := complete s (shiftRm size8 .ror s dst (s.regs.get8 .cl))

/-- `ROR r/m8, imm8` (45_integer_discrepancies.md R255). -/
def execRorRm8Imm8 (dst : Rm Reg8) (count : Byte) (s : State) : Out := complete s (shiftRm size8 .ror s dst count)

/-- `ROR r/m16, 1` (45_integer_discrepancies.md R255). -/
def execRorRm16One (dst : Rm Reg16) (s : State) : Out := complete s (shiftRm size16 .ror s dst 1#8)

/-- `ROR r/m16, CL` (45_integer_discrepancies.md R255). -/
def execRorRm16Cl (dst : Rm Reg16) (s : State) : Out := complete s (shiftRm size16 .ror s dst (s.regs.get8 .cl))

/-- `ROR r/m16, imm8` (45_integer_discrepancies.md R255). -/
def execRorRm16Imm8 (dst : Rm Reg16) (count : Byte) (s : State) : Out := complete s (shiftRm size16 .ror s dst count)

/-- `RCL r/m8, 1` (45_integer_discrepancies.md R256). -/
def execRclRm8One (dst : Rm Reg8) (s : State) : Out := complete s (shiftRm size8 .rcl s dst 1#8)

/-- `RCL r/m8, CL` (45_integer_discrepancies.md R256). -/
def execRclRm8Cl (dst : Rm Reg8) (s : State) : Out := complete s (shiftRm size8 .rcl s dst (s.regs.get8 .cl))

/-- `RCL r/m8, imm8` (45_integer_discrepancies.md R256). -/
def execRclRm8Imm8 (dst : Rm Reg8) (count : Byte) (s : State) : Out := complete s (shiftRm size8 .rcl s dst count)

/-- `RCL r/m16, 1` (45_integer_discrepancies.md R256). -/
def execRclRm16One (dst : Rm Reg16) (s : State) : Out := complete s (shiftRm size16 .rcl s dst 1#8)

/-- `RCL r/m16, CL` (45_integer_discrepancies.md R256). -/
def execRclRm16Cl (dst : Rm Reg16) (s : State) : Out := complete s (shiftRm size16 .rcl s dst (s.regs.get8 .cl))

/-- `RCL r/m16, imm8` (45_integer_discrepancies.md R256). -/
def execRclRm16Imm8 (dst : Rm Reg16) (count : Byte) (s : State) : Out := complete s (shiftRm size16 .rcl s dst count)

/-- `RCR r/m8, 1` (45_integer_discrepancies.md R257). -/
def execRcrRm8One (dst : Rm Reg8) (s : State) : Out := complete s (shiftRm size8 .rcr s dst 1#8)

/-- `RCR r/m8, CL` (45_integer_discrepancies.md R257). -/
def execRcrRm8Cl (dst : Rm Reg8) (s : State) : Out := complete s (shiftRm size8 .rcr s dst (s.regs.get8 .cl))

/-- `RCR r/m8, imm8` (45_integer_discrepancies.md R257). -/
def execRcrRm8Imm8 (dst : Rm Reg8) (count : Byte) (s : State) : Out := complete s (shiftRm size8 .rcr s dst count)

/-- `RCR r/m16, 1` (45_integer_discrepancies.md R257). -/
def execRcrRm16One (dst : Rm Reg16) (s : State) : Out := complete s (shiftRm size16 .rcr s dst 1#8)

/-- `RCR r/m16, CL` (45_integer_discrepancies.md R257). -/
def execRcrRm16Cl (dst : Rm Reg16) (s : State) : Out := complete s (shiftRm size16 .rcr s dst (s.regs.get8 .cl))

/-- `RCR r/m16, imm8` (45_integer_discrepancies.md R257). -/
def execRcrRm16Imm8 (dst : Rm Reg16) (count : Byte) (s : State) : Out := complete s (shiftRm size16 .rcr s dst count)

/-- `SHL r/m8, 1` (45_integer_discrepancies.md R258). -/
def execShlRm8One (dst : Rm Reg8) (s : State) : Out := complete s (shiftRm size8 .shl s dst 1#8)

/-- `SHL r/m8, CL` (45_integer_discrepancies.md R258). -/
def execShlRm8Cl (dst : Rm Reg8) (s : State) : Out := complete s (shiftRm size8 .shl s dst (s.regs.get8 .cl))

/-- `SHL r/m8, imm8` (45_integer_discrepancies.md R258). -/
def execShlRm8Imm8 (dst : Rm Reg8) (count : Byte) (s : State) : Out := complete s (shiftRm size8 .shl s dst count)

/-- `SHL r/m16, 1` (45_integer_discrepancies.md R258). -/
def execShlRm16One (dst : Rm Reg16) (s : State) : Out := complete s (shiftRm size16 .shl s dst 1#8)

/-- `SHL r/m16, CL` (45_integer_discrepancies.md R258). -/
def execShlRm16Cl (dst : Rm Reg16) (s : State) : Out := complete s (shiftRm size16 .shl s dst (s.regs.get8 .cl))

/-- `SHL r/m16, imm8` (45_integer_discrepancies.md R258). -/
def execShlRm16Imm8 (dst : Rm Reg16) (count : Byte) (s : State) : Out := complete s (shiftRm size16 .shl s dst count)

/-- `SHR r/m8, 1` (45_integer_discrepancies.md R259). -/
def execShrRm8One (dst : Rm Reg8) (s : State) : Out := complete s (shiftRm size8 .shr s dst 1#8)

/-- `SHR r/m8, CL` (45_integer_discrepancies.md R259). -/
def execShrRm8Cl (dst : Rm Reg8) (s : State) : Out := complete s (shiftRm size8 .shr s dst (s.regs.get8 .cl))

/-- `SHR r/m8, imm8` (45_integer_discrepancies.md R259). -/
def execShrRm8Imm8 (dst : Rm Reg8) (count : Byte) (s : State) : Out := complete s (shiftRm size8 .shr s dst count)

/-- `SHR r/m16, 1` (45_integer_discrepancies.md R259). -/
def execShrRm16One (dst : Rm Reg16) (s : State) : Out := complete s (shiftRm size16 .shr s dst 1#8)

/-- `SHR r/m16, CL` (45_integer_discrepancies.md R259). -/
def execShrRm16Cl (dst : Rm Reg16) (s : State) : Out := complete s (shiftRm size16 .shr s dst (s.regs.get8 .cl))

/-- `SHR r/m16, imm8` (45_integer_discrepancies.md R259). -/
def execShrRm16Imm8 (dst : Rm Reg16) (count : Byte) (s : State) : Out := complete s (shiftRm size16 .shr s dst count)

/-- `SAR r/m8, 1` (45_integer_discrepancies.md R260). -/
def execSarRm8One (dst : Rm Reg8) (s : State) : Out := complete s (shiftRm size8 .sar s dst 1#8)

/-- `SAR r/m8, CL` (45_integer_discrepancies.md R260). -/
def execSarRm8Cl (dst : Rm Reg8) (s : State) : Out := complete s (shiftRm size8 .sar s dst (s.regs.get8 .cl))

/-- `SAR r/m8, imm8` (45_integer_discrepancies.md R260). -/
def execSarRm8Imm8 (dst : Rm Reg8) (count : Byte) (s : State) : Out := complete s (shiftRm size8 .sar s dst count)

/-- `SAR r/m16, 1` (45_integer_discrepancies.md R260). -/
def execSarRm16One (dst : Rm Reg16) (s : State) : Out := complete s (shiftRm size16 .sar s dst 1#8)

/-- `SAR r/m16, CL` (45_integer_discrepancies.md R260). -/
def execSarRm16Cl (dst : Rm Reg16) (s : State) : Out := complete s (shiftRm size16 .sar s dst (s.regs.get8 .cl))

/-- `SAR r/m16, imm8` (45_integer_discrepancies.md R260). -/
def execSarRm16Imm8 (dst : Rm Reg16) (count : Byte) (s : State) : Out := complete s (shiftRm size16 .sar s dst count)

end Sys2Proof.Machine
end

