-- ==== Sys2Proof/Machine/Dispatch.lean ====
section
/-! DEFINITION. The meaning of each instruction, one arm a constructor. -/

namespace Sys2Proof.Machine

def exec (i : Instr) (s : State) : Host.Outcome State Fault Refusal :=
  match i with
  | .popEs => Sys2Proof.Machine.execPopEs s
  | .loadall => Sys2Proof.Machine.execLoadall s
  | .adcRm8R8 dst src => Sys2Proof.Machine.execAdcRm8R8 dst src s
  | .adcRm16R16 dst src => Sys2Proof.Machine.execAdcRm16R16 dst src s
  | .adcR8Rm8 dst src => Sys2Proof.Machine.execAdcR8Rm8 dst src s
  | .adcR16Rm16 dst src => Sys2Proof.Machine.execAdcR16Rm16 dst src s
  | .adcAlImm8 imm => Sys2Proof.Machine.execAdcAlImm8 imm s
  | .adcAxImm16 imm => Sys2Proof.Machine.execAdcAxImm16 imm s
  | .popSs => Sys2Proof.Machine.execPopSs s
  | .sbbRm8R8 dst src => Sys2Proof.Machine.execSbbRm8R8 dst src s
  | .sbbRm16R16 dst src => Sys2Proof.Machine.execSbbRm16R16 dst src s
  | .sbbR8Rm8 dst src => Sys2Proof.Machine.execSbbR8Rm8 dst src s
  | .sbbR16Rm16 dst src => Sys2Proof.Machine.execSbbR16Rm16 dst src s
  | .sbbAlImm8 imm => Sys2Proof.Machine.execSbbAlImm8 imm s
  | .sbbAxImm16 imm => Sys2Proof.Machine.execSbbAxImm16 imm s
  | .popDs => Sys2Proof.Machine.execPopDs s
  | .esPrefix => Sys2Proof.Machine.execEsPrefix s
  | .csPrefix => Sys2Proof.Machine.execCsPrefix s
  | .ssPrefix => Sys2Proof.Machine.execSsPrefix s
  | .dsPrefix => Sys2Proof.Machine.execDsPrefix s
  | .pushSp => Sys2Proof.Machine.execPushSp s
  | .adcRm8Imm8 dst imm => Sys2Proof.Machine.execAdcRm8Imm8 dst imm s
  | .sbbRm8Imm8 dst imm => Sys2Proof.Machine.execSbbRm8Imm8 dst imm s
  | .adcRm16Imm16 dst imm => Sys2Proof.Machine.execAdcRm16Imm16 dst imm s
  | .sbbRm16Imm16 dst imm => Sys2Proof.Machine.execSbbRm16Imm16 dst imm s
  | .adcRm16SextImm8 dst imm => Sys2Proof.Machine.execAdcRm16SextImm8 dst imm s
  | .sbbRm16SextImm8 dst imm => Sys2Proof.Machine.execSbbRm16SextImm8 dst imm s
  | .xchgRm8R8 dst src => Sys2Proof.Machine.execXchgRm8R8 dst src s
  | .xchgRm16R16 dst src => Sys2Proof.Machine.execXchgRm16R16 dst src s
  | .movRm8R8 dst src => Sys2Proof.Machine.execMovRm8R8 dst src s
  | .movRm16R16 dst src => Sys2Proof.Machine.execMovRm16R16 dst src s
  | .movR8Rm8 dst src => Sys2Proof.Machine.execMovR8Rm8 dst src s
  | .movR16Rm16 dst src => Sys2Proof.Machine.execMovR16Rm16 dst src s
  | .movRm16Sreg dst src => Sys2Proof.Machine.execMovRm16Sreg dst src s
  | .movSregRm16 dst src => Sys2Proof.Machine.execMovSregRm16 dst src s
  | .nop => Sys2Proof.Machine.execNop s
  | .xchgAxR16 src => Sys2Proof.Machine.execXchgAxR16 src s
  | .wait => Sys2Proof.Machine.execWait s
  | .pushf => Sys2Proof.Machine.execPushf s
  | .popf => Sys2Proof.Machine.execPopf s
  | .rolRm8Imm8 dst count => Sys2Proof.Machine.execRolRm8Imm8 dst count s
  | .rorRm8Imm8 dst count => Sys2Proof.Machine.execRorRm8Imm8 dst count s
  | .rclRm8Imm8 dst count => Sys2Proof.Machine.execRclRm8Imm8 dst count s
  | .rcrRm8Imm8 dst count => Sys2Proof.Machine.execRcrRm8Imm8 dst count s
  | .shlRm8Imm8 dst count => Sys2Proof.Machine.execShlRm8Imm8 dst count s
  | .shrRm8Imm8 dst count => Sys2Proof.Machine.execShrRm8Imm8 dst count s
  | .sarRm8Imm8 dst count => Sys2Proof.Machine.execSarRm8Imm8 dst count s
  | .rolRm16Imm8 dst count => Sys2Proof.Machine.execRolRm16Imm8 dst count s
  | .rorRm16Imm8 dst count => Sys2Proof.Machine.execRorRm16Imm8 dst count s
  | .rclRm16Imm8 dst count => Sys2Proof.Machine.execRclRm16Imm8 dst count s
  | .rcrRm16Imm8 dst count => Sys2Proof.Machine.execRcrRm16Imm8 dst count s
  | .shlRm16Imm8 dst count => Sys2Proof.Machine.execShlRm16Imm8 dst count s
  | .shrRm16Imm8 dst count => Sys2Proof.Machine.execShrRm16Imm8 dst count s
  | .sarRm16Imm8 dst count => Sys2Proof.Machine.execSarRm16Imm8 dst count s
  | .les dst src => Sys2Proof.Machine.execLes dst src s
  | .lds dst src => Sys2Proof.Machine.execLds dst src s
  | .int3 => Sys2Proof.Machine.execInt3 s
  | .intImm8 n => Sys2Proof.Machine.execIntImm8 n s
  | .iret => Sys2Proof.Machine.execIret s
  | .rolRm8One dst => Sys2Proof.Machine.execRolRm8One dst s
  | .rorRm8One dst => Sys2Proof.Machine.execRorRm8One dst s
  | .rclRm8One dst => Sys2Proof.Machine.execRclRm8One dst s
  | .rcrRm8One dst => Sys2Proof.Machine.execRcrRm8One dst s
  | .shlRm8One dst => Sys2Proof.Machine.execShlRm8One dst s
  | .shrRm8One dst => Sys2Proof.Machine.execShrRm8One dst s
  | .sarRm8One dst => Sys2Proof.Machine.execSarRm8One dst s
  | .rolRm16One dst => Sys2Proof.Machine.execRolRm16One dst s
  | .rorRm16One dst => Sys2Proof.Machine.execRorRm16One dst s
  | .rclRm16One dst => Sys2Proof.Machine.execRclRm16One dst s
  | .rcrRm16One dst => Sys2Proof.Machine.execRcrRm16One dst s
  | .shlRm16One dst => Sys2Proof.Machine.execShlRm16One dst s
  | .shrRm16One dst => Sys2Proof.Machine.execShrRm16One dst s
  | .sarRm16One dst => Sys2Proof.Machine.execSarRm16One dst s
  | .rolRm8Cl dst => Sys2Proof.Machine.execRolRm8Cl dst s
  | .rorRm8Cl dst => Sys2Proof.Machine.execRorRm8Cl dst s
  | .rclRm8Cl dst => Sys2Proof.Machine.execRclRm8Cl dst s
  | .rcrRm8Cl dst => Sys2Proof.Machine.execRcrRm8Cl dst s
  | .shlRm8Cl dst => Sys2Proof.Machine.execShlRm8Cl dst s
  | .shrRm8Cl dst => Sys2Proof.Machine.execShrRm8Cl dst s
  | .sarRm8Cl dst => Sys2Proof.Machine.execSarRm8Cl dst s
  | .rolRm16Cl dst => Sys2Proof.Machine.execRolRm16Cl dst s
  | .rorRm16Cl dst => Sys2Proof.Machine.execRorRm16Cl dst s
  | .rclRm16Cl dst => Sys2Proof.Machine.execRclRm16Cl dst s
  | .rcrRm16Cl dst => Sys2Proof.Machine.execRcrRm16Cl dst s
  | .shlRm16Cl dst => Sys2Proof.Machine.execShlRm16Cl dst s
  | .shrRm16Cl dst => Sys2Proof.Machine.execShrRm16Cl dst s
  | .sarRm16Cl dst => Sys2Proof.Machine.execSarRm16Cl dst s
  | .esc op reg operand => Sys2Proof.Machine.execEsc op reg operand s
  | .fninit => Sys2Proof.Machine.execFninit s
  | .fsetpm => Sys2Proof.Machine.execFsetpm s
  | .inAlImm8 port => Sys2Proof.Machine.execInAlImm8 port s
  | .inAxImm8 port => Sys2Proof.Machine.execInAxImm8 port s
  | .outImm8Al port => Sys2Proof.Machine.execOutImm8Al port s
  | .outImm8Ax port => Sys2Proof.Machine.execOutImm8Ax port s
  | .jmpRel16 rel => Sys2Proof.Machine.execJmpRel16 rel s
  | .jmpFar off seg => Sys2Proof.Machine.execJmpFar off seg s
  | .jmpRel8 rel => Sys2Proof.Machine.execJmpRel8 rel s
  | .inAlDx => Sys2Proof.Machine.execInAlDx s
  | .inAxDx => Sys2Proof.Machine.execInAxDx s
  | .outDxAl => Sys2Proof.Machine.execOutDxAl s
  | .outDxAx => Sys2Proof.Machine.execOutDxAx s
  | .lock => Sys2Proof.Machine.execLock s
  | .divRm8 src => Sys2Proof.Machine.execDivRm8 src s
  | .idivRm8 src => Sys2Proof.Machine.execIdivRm8 src s
  | .divRm16 src => Sys2Proof.Machine.execDivRm16 src s
  | .idivRm16 src => Sys2Proof.Machine.execIdivRm16 src s
  | .cli => Sys2Proof.Machine.execCli s
  | .sti => Sys2Proof.Machine.execSti s

end Sys2Proof.Machine
end

