-- ==== Sys2Proof/Machine/Fetch.lean ====
section
/-! DEFINITION. What a step does before an instruction runs: the environment's event at an instruction boundary, the states
no step begins in, and fetching and decoding the instruction (10_state.md R34, 20_memory.md R94 to R96, 60_exceptions.md
R290, R310, R318). -/

namespace Sys2Proof.Machine

/-- What a step comes to: an outcome with no instruction run, or an instruction to run in a state. -/
inductive Action where
  | stop (o : Out)
  | run (i : Instr) (s : State)

/-- The bytes an address has held since the last flush, but for its current one (20_memory.md R95). -/
def supersededAt (l : List Host.Cell) (a : Nat) : List Byte := (l.filter fun c => c.1 == a).map Prod.snd

/-- The byte a fetch of physical address `a` at offset `off` returns: current memory, or for a byte written since the last
flush any of the bytes it has held since (20_memory.md R95; log entry 4). -/
def State.fetchedByte (s : State) (off a : Nat) : Byte :=
  match supersededAt s.superseded a with
  | [] => s.byteFor .fetch a
  | l => (s.byteFor .fetch a :: l).getD (Config.staleChoice s.freeIndex off % (l.length + 1)) (s.byteFor .fetch a)

/-- The byte at offset `off` of the code segment: `Lin(CS, off, 1, fetch)` (10_state.md R33, R34). -/
def fetchByte (s : State) (off : Nat) : Try Byte := do
  let a ← lin s .cs off 1 .fetch
  pure (s.fetchedByte off a)

/-- The bytes that can be fetched from offset `off` on, at most the number given. -/
def fetchBytes (s : State) (off : Nat) : Nat → List Byte
  | 0 => []
  | n + 1 =>
    match fetchByte s off with
    | .ok b => b :: fetchBytes s (off + 1) n
    | .error _ => []

/-- The bytes an instruction at the fetch offset can have: with its prefixes at most 10 (30_encoding.md R123). -/
def fetchWindow (s : State) : List Byte := fetchBytes s s.fetchOffset (maxInstrBytes - s.prefixLen)

/-- The outcome when an instruction needs a byte that cannot be fetched: the exception with IP at the offending offset
(10_state.md R34, 92_eei_decisions.md D22, 90_conflicts.md C18; log entry 13). -/
def fetchFailure (s : State) (off : Nat) : Out :=
  match fetchByte s off with
  | .ok _ => .refused .instructionTooLong
  | .error e => endWith { s with ip := BitVec.ofNat 16 off, ipPastEnd := false } e

/-- Whether LOCK may precede the instruction that begins with these bytes: any that the platform does not say cannot be
locked (43_io_and_lock.md R216, 30_encoding.md R122; log entry 8). -/
def State.lockable (s : State) (w : List Byte) : Bool := !s.platform.unlockable.any fun b => b.isPrefixOf w

/-- Fetches and decodes the instruction at the fetch offset. Before the instruction runs, `ip1` is written and the interrupt
hold-off of the last instruction ends (10_state.md R33, 40_segment_register_access.md R140), also where the instruction then
raises an exception and so does not finish (DESIGN CHOICE, log entry 38). -/
def fetchInstr (s : State) : Action :=
  let w := fetchWindow s
  match decode w with
  | .instr i rest =>
    if s.lock && !s.lockable w then .stop (.refused .lockNotApplicable)
    else .run i { s with ip1 := s.fetchOffset + (w.length - rest.length), intShadow := false }
  | .reject r => .stop (.refused (.undecodable r))
  | .short =>
    if w.length = maxInstrBytes - s.prefixLen then .stop (.refused .instructionTooLong)
    else .stop (fetchFailure s (s.fetchOffset + w.length))

/-- The states no step begins in: TF = 1 (60_exceptions.md R318), and in protected mode CS and SS entries of different dpl
(10_state.md R45; log entry 25). -/
def guarded (s : State) (a : Action) : Action :=
  if s.flags.tf then .stop (.refused .trapFlagSet)
  else if s.prot && decide (s.cs.cache.dpl ≠ s.ss.cache.dpl) then .stop (.refused .privilegeMismatch)
  else a

/-- The delivery of a pending exception 9, with IP at the next instruction to execute (44_numeric_coprocessor.md R229,
92_eei_decisions.md D24). -/
def deliverOverrun (s : State) : Out := takeException { s with exc9Pending := false } .segmentOverrun none

/-- Whether an external interrupt offered now is accepted (60_exceptions.md R290, 40_segment_register_access.md R140). -/
def State.accepts (s : State) : Bool := s.flags.ie && !s.intShadow

/-- The step at an instruction boundary, `e` being what the environment does there (60_exceptions.md R290, R310;
70_reset_and_hazards.md R330, R332). -/
def atEvent (s : State) (e : Event) : Action :=
  match e with
  | .quiet => guarded s (fetchInstr s)
  | .interrupt n =>
    guarded s (if s.accepts then .stop (complete s (externalInterrupt s n.toNat)) else fetchInstr s)
  | .exception9 => guarded s (if s.exc9Pending then .stop (deliverOverrun s) else fetchInstr s)
  | .reset => .stop (.next s.afterReset)
  | .resetNumeric => .stop (.next s.afterNumericReset)

/-- What the next step comes to. Between a prefix and its instruction there is no boundary (log entry 7); where `inputs` says
nothing more, a pending exception 9 is delivered at once and nothing else happens (log entry 9). -/
def nextAction (s : State) : Action :=
  if s.prefixLen = 0 then
    match s.inputs with
    | [] => atEvent s .exception9
    | e :: rest => atEvent { s with inputs := rest } e
  else fetchInstr s

end Sys2Proof.Machine
end

