-- ==== Sys2Proof/Machine/Cycle.lean ====
section
/-! DEFINITION. From one fetch to a whole instruction: the prefixes, and the instruction they belong to (00_scope.md R14,
30_encoding.md R111, R112; log entry 7). -/

namespace Sys2Proof.Machine

/-- One fetch: the counter of the free values advances, then a prefix is read, an instruction runs, or an event at the
boundary takes its place. -/
def fetchAndRun (s : State) : Out :=
  match nextAction s.tick with
  | .stop o => o
  | .run i s' => exec i s'

/-- Whether the instruction goes on: a prefix of it has just been read (log entry 7). -/
def State.goesOn (s : State) : Bool := decide (s.prefixLen ≠ 0)

/-- One instruction with its prefixes, at most `n` of them after the first. -/
def runInstruction : Nat → State → Out
  | 0, s => fetchAndRun s
  | n + 1, s =>
    match fetchAndRun s with
    | .next t => if t.goesOn then runInstruction n t else .next t
    | .fault f => .fault f
    | .refused r => .refused r

end Sys2Proof.Machine
end

