-- ==== Sys2Proof/Machine/Step.lean ====
section
/-! DEFINITION. One step of the machine, and a state in which the next step runs given bytes. -/

namespace Sys2Proof.Machine

/-- One step: one instruction with its prefixes, or an event at the boundary in its place (00_scope.md R14). -/
def step (s : State) : Host.Outcome State Fault Refusal := runInstruction maxInstrBytes s

/-- Memory with a list of bytes from an address on. -/
def placeBytes (m : Memory) (a : Nat) : List Byte → Memory
  | [] => m
  | b :: t => placeBytes (m.write a b) (a + 1) t

/-- The state with the instruction whose bits are `w` (numbered as spec/opcode_table.json numbers them) in memory where the
next step fetches, and no older byte left in the prefetcher (log entry 16). -/
def State.withFetchWord (s : State) (nbits w : Nat) : State :=
  { s with
    mem := placeBytes s.mem (s.cs.cache.base.toNat + s.fetchOffset) (tableBytes nbits w)
    superseded := [] }

end Sys2Proof.Machine
end

