-- ==== Sys2Proof/Safety.lean ====
section
/-! DEFINITION. The terms in which statements about the machine are made: how an instruction that completes ends, what a
store changes, when a step runs an instruction, the invariant that every step keeps, and the instructions of one shape by
name. -/

namespace Sys2Proof.Machine

/-- The end of an instruction that is no control transfer: IP is `ip1` (10_state.md R34) and no prefix is pending. -/
def State.ended (s : State) : State := s.advance.finish

/-- From `s` to `t` the byte `v` was stored at `a` and no other byte of memory changed; where no memory or ROM is behind `a`
nothing changed (20_memory.md R90). -/
def WroteByte (s t : State) (a : Nat) (v : Byte) : Prop :=
  (∀ b, b ≠ a → t.byte b = s.byte b) ∧
  (s.writableAt a = true → s.mem.wf = true → t.byte a = v) ∧
  (s.writableAt a = false → t.byte a = s.byte a)

/-- From `s` to `t` the word `v` was stored at `a` and `a + 1`, the low byte first (20_memory.md R84), and no other byte of
memory changed; where no memory or ROM is behind an address its byte did not change (20_memory.md R90). -/
def WroteWord (s t : State) (a : Nat) (v : Word) : Prop :=
  (∀ b, b < a ∨ a + 2 ≤ b → t.byte b = s.byte b) ∧
  (s.writableAt a = true → s.mem.wf = true → t.byte a = lowByte v) ∧
  (s.writableAt (a + 1) = true → s.mem.wf = true → t.byte (a + 1) = highByte v) ∧
  (s.writableAt a = false → t.byte a = s.byte a) ∧
  (s.writableAt (a + 1) = false → t.byte (a + 1) = s.byte (a + 1))

/-- Every byte of memory reads in `t` as in `s`. -/
def SameBytes (s t : State) : Prop := ∀ b, t.byte b = s.byte b

/-- From `s` to `t` the words of `l`, each with its address, were stored and nothing else changed in memory but the bytes of
`ex`; the words are read back where both their bytes are RAM, unless a byte of `ex` lies in one of them. -/
def WroteWords (s t : State) (l : List (Nat × Word)) (ex : List Nat) : Prop :=
  (∀ b, b ∉ ex → (∀ p ∈ l, b < p.1 ∨ p.1 + 2 ≤ b) → t.byte b = s.byte b) ∧
  (s.mem.wf = true → (∀ p ∈ l, ∀ e ∈ ex, e < p.1 ∨ p.1 + 2 ≤ e) →
    ∀ p ∈ l, s.writableAt p.1 = true → s.writableAt (p.1 + 1) = true → t.word p.1 = p.2)

/-- The next step can only run an instruction: it is inside an instruction's prefixes, or the environment does nothing at
the boundary and the state is one a step may begin in (10_state.md R45, 60_exceptions.md R290, R318). -/
def State.runsInstruction (s : State) : Bool :=
  decide (s.prefixLen ≠ 0) ||
    (((decide (s.inputs = []) && !s.exc9Pending) || decide (s.inputs.head? = some .quiet)) &&
      !s.flags.tf && !(s.prot && decide (s.cs.cache.dpl ≠ s.ss.cache.dpl)))

/-- What the environment still does after the next step, when that step runs an instruction. -/
def State.laterInputs (s : State) : List Event := if s.prefixLen = 0 then s.inputs.tail else s.inputs

/-- The state in which the next instruction is fetched: the free values advance and the boundary is past. -/
def State.fetching (s : State) : State := { s.tick with inputs := s.laterInputs }

/-- The state in which the next instruction, `n` bytes long, runs: it has been fetched, `ip1` is known (10_state.md R33) and
the hold-off after a load of SS is over (40_segment_register_access.md R140). -/
def State.atInstruction (s : State) (n : Nat) : State := { s.fetching with ip1 := s.fetchOffset + n, intShadow := false }

/-- The prefixes (30_encoding.md R112): instructions of their own in this model, which a step reads together with the
instruction that follows (log entry 7). -/
def isPrefix : Instr → Bool
  | .esPrefix => true
  | .csPrefix => true
  | .ssPrefix => true
  | .dsPrefix => true
  | .lock => true
  | _ => false

/-- The next step runs the instruction `i`, with or without prefixes before it. -/
inductive Runs : State → Instr → Prop where
  | here {s : State} {i : Instr} {rest : List Byte} (h : decode (fetchWindow s.fetching) = .instr i rest) : Runs s i
  | later {s t : State} {p i : Instr} {rest : List Byte} (h : decode (fetchWindow s.fetching) = .instr p rest)
      (hp : isPrefix p = true)
      (ht : exec p (s.atInstruction ((fetchWindow s.fetching).length - rest.length)) = .next t) (hr : t.prefixLen ≠ 0)
      (hi : Runs t i) : Runs s i

/-- A code entry is neither writable nor expand-down, a data entry neither readable code nor conforming (10_state.md R42). -/
def SegCache.consistent (c : SegCache) : Bool :=
  if c.code then !c.writable && !c.expandDown else !c.readable && !c.conforming

/-- The 20-bit form of a stored numeric address (44_numeric_coprocessor.md R235). -/
def NumericAddress.isPhysical : NumericAddress → Bool
  | .physical _ => true
  | .virt _ _ => false

/-- What every step keeps: memory is in its canonical form and lies inside the physical space (20_memory.md R71), the
descriptor cache entries are consistent (10_state.md R42), the prefixes read fit in an instruction (30_encoding.md R123) and
none is remembered at a boundary, a real-mode 80287 holds 20-bit addresses (44_numeric_coprocessor.md R235), and its ERROR
signal is off while every error is masked (60_exceptions.md R287) or it is stuck (44_numeric_coprocessor.md R229). -/
structure State.Inv (s : State) : Prop where
  memory : s.mem.wf = true
  physical : ∀ c ∈ s.mem, c.1 < physicalSize
  entries : ∀ r, (s.seg r).cache.consistent = true
  prefixes : s.prefixLen ≤ maxInstrBytes
  boundary : s.prefixLen = 0 → s.override = none ∧ s.lock = false
  addresses : s.numeric.mode = .real → s.numeric.fip.isPhysical = true ∧ s.numeric.fdp.isPhysical = true
  masked : s.numeric.errorPending = true → s.numeric.masks ≠ 0x3F#6
  stuck : s.numeric.busy = .stuck → s.numeric.errorPending = false

/-- The registers that only LOADALL and RESET write (10_state.md R40, R46 to R48), the open parameters, and the counter of
the free values are the same. -/
structure SameSystem (s t : State) : Prop where
  msw : t.msw = s.msw
  gdtr : t.gdtr = s.gdtr
  idtr : t.idtr = s.idtr
  ldtr : t.ldtr = s.ldtr
  tr : t.tr = s.tr
  platform : t.platform = s.platform
  freeIndex : t.freeIndex = s.freeIndex

/-- The address of the stack word at an offset, where it can be written. -/
def stackAddress (s : State) (off : Word) : Try Nat := lin s .ss off.toNat 2 .write

/-- The words of a frame pushed from an SP down, each with the address it is stored at, and the SP after them. -/
inductive Frame (s : State) : Word → List Word → List (Nat × Word) → Word → Prop where
  | done (sp : Word) : Frame s sp [] [] sp
  | push {sp sp' v : Word} {a : Nat} {vs : List Word} {l : List (Nat × Word)} (h : stackAddress s (sp - 2#16) = .ok a)
      (t : Frame s (sp - 2#16) vs l sp') : Frame s sp (v :: vs) ((a, v) :: l) sp'

/-- A gate and its handler's segment permit an entry at the same level (60_exceptions.md R305). -/
structure SameLevelGate (s : State) (g : Gate) (d : Descriptor) : Prop where
  type : g.type = some .interrupt ∨ g.type = some .trap
  gatePresent : g.present = true
  read : ∃ e, readDescriptor s .handler g.selector e = .ok d
  present : d.present = true
  code : d.isCode = true
  level : d.dpl = s.cpl ∨ (d.isConforming = true ∧ d.dpl ≤ s.cpl)
  inside : g.offset ≤ d.limit

/-- A gate and its handler's segment permit an entry at a more privileged level, whose SS and SP are those of the TSS
(60_exceptions.md R303, R305); `d2` is the descriptor of its stack segment. -/
structure InnerLevelGate (s : State) (g : Gate) (d d2 : Descriptor) : Prop where
  type : g.type = some .interrupt ∨ g.type = some .trap
  gatePresent : g.present = true
  read : ∃ e, readDescriptor s .handler g.selector e = .ok d
  present : d.present = true
  code : d.isCode = true
  conforming : d.isConforming = false
  level : d.dpl < s.cpl
  inside : g.offset ≤ d.limit
  spInside : s.innerSpAt d.dpl + 2 ≤ physicalSize
  ssInside : s.innerSsAt d.dpl + 2 ≤ physicalSize
  stackRead : ∃ e, readDescriptor s .innerStack (s.wordFor .innerPointer (s.innerSsAt d.dpl)) e = .ok d2
  stackPresent : d2.present = true
  stackWritable : d2.isWritableData = true
  stackLevel : d2.dpl = d.dpl
  stackRpl : rpl (s.wordFor .innerPointer (s.innerSsAt d.dpl)) = d.dpl

/-- The state with the stack segment of an inner level (60_exceptions.md R305). -/
def State.onInnerStack (s : State) (level : BitVec 2) (d2 : Descriptor) : State :=
  s.setSeg .ss { val := s.wordFor .innerPointer (s.innerSsAt level)
                 cache := SegCache.ofAccess d2.base d2.limit d2.access }

/-- `t` is in the handler of the gate `g`, whose segment is `d`, at a level, entered from `s` with the stack at `sp`; of the
stack segment and of memory nothing is said here (60_exceptions.md R305). -/
structure Entered (s t : State) (g : Gate) (d : Descriptor) (level : BitVec 2) (sp : Word) : Prop where
  cs : t.cs = { val := (g.selector &&& 0xFFFC#16) ||| level.setWidth 16
                cache := { SegCache.ofAccess d.base d.limit d.access with dpl := level } }
  cpl : t.cpl = level
  ip : t.ip = g.offset
  flags : t.flags =
    { s.flags with tf := false, nt := false, ie := if g.type = some .interrupt then false else s.flags.ie }
  regs : t.regs = { s.regs with sp := sp }
  ds : t.ds = s.ds
  es : t.es = s.es
  system : SameSystem s t
  numeric : t.numeric = s.numeric
  exc9Pending : t.exc9Pending = s.exc9Pending
  ioLog : t.ioLog = s.ioLog
  inputs : t.inputs = s.inputs
  superseded : t.superseded = []
  prefixLen : t.prefixLen = 0

/-- A selector names no entry of its table: it is beyond the limit, or in the LDT while LDTR is invalid (60_exceptions.md
R300). -/
def State.outsideTable (s : State) (sel : Word) : Bool :=
  if isLocal s.platform.format sel then !s.ldtr.valid || decide (s.ldtr.limit.toNat < s.entryOffset sel + 7)
  else decide (s.gdtr.limit.toNat < s.entryOffset sel + 7)

/-- The stack of an entry that a gate permits but for its offset, its SP, and the words pushed there: on the same stack those
given, on an inner one the old SS and SP before them (60_exceptions.md R305). -/
inductive EntryStack (s : State) (g : Gate) (d : Descriptor) (saved : List Word) : State → Word → List Word → Prop where
  | same (h : SameLevelGate s { g with offset := 0#16 } d) : EntryStack s g d saved s s.regs.sp saved
  | inner {d2 : Descriptor} (h : InnerLevelGate s { g with offset := 0#16 } d d2) :
      EntryStack s g d saved (s.onInnerStack d.dpl d2) (s.wordFor .innerPointer (s.innerSpAt d.dpl))
        ([s.ss.val, s.regs.sp] ++ saved)

/-- The entry through a gate is refused, by the check that fails: a task gate, a gate not present, no segment of a handler or
of an inner stack, a word that cannot be pushed, an offset beyond the handler's segment (60_exceptions.md R305, R306, R312). -/
inductive EntryRefused (s : State) (g : Gate) (saved : List Word) : Refusal → Prop where
  | taskGate (h : g.type = some .task) : EntryRefused s g saved .taskGate
  | absent (ht : g.type ≠ some .task) (h : g.present = false) : EntryRefused s g saved .gateNotPresent
  | noHandler (ht : g.type ≠ some .task) (hp : g.present = true) (h : s.outsideTable g.selector = true) :
      EntryRefused s g saved .handlerSegment
  | handler {d : Descriptor} {e : Stop} (ht : g.type ≠ some .task) (hp : g.present = true)
      (hd : readDescriptor s .handler g.selector e = .ok d)
      (h : d.present = false ∨ d.isCode = false ∨ s.cpl < d.dpl) : EntryRefused s g saved .handlerSegment
  | innerStack {d : Descriptor} {e : Stop} (ht : g.type ≠ some .task) (hp : g.present = true)
      (hd : readDescriptor s .handler g.selector e = .ok d) (hdp : d.present = true) (hc : d.isCode = true)
      (hn : d.isConforming = false) (hl : d.dpl < s.cpl) (h1 : s.innerSpAt d.dpl + 2 ≤ physicalSize)
      (h2 : s.innerSsAt d.dpl + 2 ≤ physicalSize)
      (h : s.outsideTable (s.wordFor .innerPointer (s.innerSsAt d.dpl)) = true ∨
        ∃ d2 e2, readDescriptor s .innerStack (s.wordFor .innerPointer (s.innerSsAt d.dpl)) e2 = .ok d2 ∧
          (d2.present = false ∨ d2.isWritableData = false ∨ d2.dpl ≠ d.dpl ∨
            rpl (s.wordFor .innerPointer (s.innerSsAt d.dpl)) ≠ d.dpl)) : EntryRefused s g saved .innerStackSegment
  | push {d : Descriptor} {u : State} {sp0 sp v : Word} {ws pre post : List Word} {l : List (Nat × Word)} {x : Exc}
      {c : Option Word} (h : EntryStack s g d saved u sp0 ws) (hw : ws = pre ++ v :: post) (hf : Frame u sp0 pre l sp)
      (he : stackAddress u (sp - 2#16) = .error (.trap x c)) : EntryRefused s g saved .faultDuringEntry
  | pushRefused {d : Descriptor} {u : State} {sp0 sp v : Word} {ws pre post : List Word} {l : List (Nat × Word)} {r : Refusal}
      (h : EntryStack s g d saved u sp0 ws) (hw : ws = pre ++ v :: post) (hf : Frame u sp0 pre l sp)
      (he : stackAddress u (sp - 2#16) = .error (.refuse r)) : EntryRefused s g saved r
  | offset {d : Descriptor} {u : State} {sp0 sp : Word} {ws : List Word} {l : List (Nat × Word)}
      (h : EntryStack s g d saved u sp0 ws) (hf : Frame u sp0 ws l sp) (ho : d.limit < g.offset) :
      EntryRefused s g saved .handlerOffset

/-- A cache entry with a real-mode base: the paragraph ID times 16 (40_segment_register_access.md R141). -/
def SegCache.atParagraph (c : SegCache) (v : Word) : SegCache := { c with base := BitVec.ofNat 24 (v.toNat * 16) }

/-! ### Instructions of one shape -/

/-- `POP` of a segment register other than CS (40_segment_register_access.md R142). -/
def popInstr : SegReg → Option Instr
  | .es => some .popEs
  | .ss => some .popSs
  | .ds => some .popDs
  | .cs => none

/-- LES or LDS by the segment register it loads (40_segment_register_access.md R143). -/
def farLoadInstr (dst : Reg16) (src : MemOperand) : SegReg → Option Instr
  | .es => some (.les dst src)
  | .ds => some (.lds dst src)
  | .cs => none
  | .ss => none

/-- `i` is an instruction that loads the segment register `r` with `v` and then changes the state by `f`: MOV from a register
or memory, POP, which adds 2 to SP, LES and LDS, which write a general register (40_segment_register_access.md R140, R142,
R143). The operands can be read. -/
inductive LoadsSegment (s : State) : Instr → SegReg → Word → (State → State) → Prop where
  | mov (r : SegReg) (src : Rm Reg16) (v : Word) (hr : r ≠ .cs) (hv : size16.readRm s src = .ok v) :
      LoadsSegment s (.movSregRm16 r src) r v id
  | pop (r : SegReg) (i : Instr) (v : Word) (hi : popInstr r = some i) (hv : stackWord s s.regs.sp = .ok v) :
      LoadsSegment s i r v (fun t => t.setSp (s.regs.sp + 2#16))
  | far (r : SegReg) (i : Instr) (dst : Reg16) (src : MemOperand) (a b : Nat) (hi : farLoadInstr dst src r = some i)
      (ha : operandAddress s src 2 .read = .ok a)
      (hb : lin s (s.operandSegment src) (effectiveOffset s.regs src + 2#16).toNat 2 .read = .ok b) :
      LoadsSegment s i r (s.word b) (fun t => size16.setReg t dst (s.word a))

/-- The prefix of a segment register (30_encoding.md R112). -/
def prefixInstr : SegReg → Instr
  | .es => .esPrefix
  | .cs => .csPrefix
  | .ss => .ssPrefix
  | .ds => .dsPrefix

/-- The software interrupts, by vector: `INT 3` is also an instruction of one byte (42_interrupt_and_flag_instructions.md
R180, R181). -/
def isInt (i : Instr) (n : Byte) : Prop := i = .intImm8 n ∨ (i = .int3 ∧ n = 3#8)

/-- The count operand of a shift or rotate (45_integer_discrepancies.md R251). -/
inductive ShiftForm where
  | one
  | cl
  | imm (count : Byte)
deriving DecidableEq, Repr

/-- The count (45_integer_discrepancies.md R253). -/
def ShiftForm.count (s : State) : ShiftForm → Byte
  | .one => 1#8
  | .cl => s.regs.get8 .cl
  | .imm c => c

/-- The 21 shifts and rotates of a byte (45_integer_discrepancies.md R251, R252). -/
def shiftInstr8 (op : ShiftOp) (form : ShiftForm) (dst : Rm Reg8) : Instr :=
  match op, form with
  | .rol, .one => .rolRm8One dst
  | .rol, .cl => .rolRm8Cl dst
  | .rol, .imm c => .rolRm8Imm8 dst c
  | .ror, .one => .rorRm8One dst
  | .ror, .cl => .rorRm8Cl dst
  | .ror, .imm c => .rorRm8Imm8 dst c
  | .rcl, .one => .rclRm8One dst
  | .rcl, .cl => .rclRm8Cl dst
  | .rcl, .imm c => .rclRm8Imm8 dst c
  | .rcr, .one => .rcrRm8One dst
  | .rcr, .cl => .rcrRm8Cl dst
  | .rcr, .imm c => .rcrRm8Imm8 dst c
  | .shl, .one => .shlRm8One dst
  | .shl, .cl => .shlRm8Cl dst
  | .shl, .imm c => .shlRm8Imm8 dst c
  | .shr, .one => .shrRm8One dst
  | .shr, .cl => .shrRm8Cl dst
  | .shr, .imm c => .shrRm8Imm8 dst c
  | .sar, .one => .sarRm8One dst
  | .sar, .cl => .sarRm8Cl dst
  | .sar, .imm c => .sarRm8Imm8 dst c

/-- The 21 shifts and rotates of a word (45_integer_discrepancies.md R251, R252). -/
def shiftInstr16 (op : ShiftOp) (form : ShiftForm) (dst : Rm Reg16) : Instr :=
  match op, form with
  | .rol, .one => .rolRm16One dst
  | .rol, .cl => .rolRm16Cl dst
  | .rol, .imm c => .rolRm16Imm8 dst c
  | .ror, .one => .rorRm16One dst
  | .ror, .cl => .rorRm16Cl dst
  | .ror, .imm c => .rorRm16Imm8 dst c
  | .rcl, .one => .rclRm16One dst
  | .rcl, .cl => .rclRm16Cl dst
  | .rcl, .imm c => .rclRm16Imm8 dst c
  | .rcr, .one => .rcrRm16One dst
  | .rcr, .cl => .rcrRm16Cl dst
  | .rcr, .imm c => .rcrRm16Imm8 dst c
  | .shl, .one => .shlRm16One dst
  | .shl, .cl => .shlRm16Cl dst
  | .shl, .imm c => .shlRm16Imm8 dst c
  | .shr, .one => .shrRm16One dst
  | .shr, .cl => .shrRm16Cl dst
  | .shr, .imm c => .shrRm16Imm8 dst c
  | .sar, .one => .sarRm16One dst
  | .sar, .cl => .sarRm16Cl dst
  | .sar, .imm c => .sarRm16Imm8 dst c

/-- The byte forms of ADC and SBB (45_integer_discrepancies.md R268). -/
inductive CarryForm8 where
  | rmReg (dst : Rm Reg8) (src : Reg8)
  | regRm (dst : Reg8) (src : Rm Reg8)
  | alImm (imm : Byte)
  | rmImm (dst : Rm Reg8) (imm : Byte)
deriving DecidableEq, Repr

/-- The word forms of ADC and SBB (45_integer_discrepancies.md R268). -/
inductive CarryForm16 where
  | rmReg (dst : Rm Reg16) (src : Reg16)
  | regRm (dst : Reg16) (src : Rm Reg16)
  | axImm (imm : Word)
  | rmImm (dst : Rm Reg16) (imm : Word)
  | rmSextImm (dst : Rm Reg16) (imm : Byte)
deriving DecidableEq, Repr

/-- The instruction of a byte form. -/
def carryInstr8 (op : CarryOp) (form : CarryForm8) : Instr :=
  match op, form with
  | .adc, .rmReg d r => .adcRm8R8 d r
  | .adc, .regRm d o => .adcR8Rm8 d o
  | .adc, .alImm v => .adcAlImm8 v
  | .adc, .rmImm d v => .adcRm8Imm8 d v
  | .sbb, .rmReg d r => .sbbRm8R8 d r
  | .sbb, .regRm d o => .sbbR8Rm8 d o
  | .sbb, .alImm v => .sbbAlImm8 v
  | .sbb, .rmImm d v => .sbbRm8Imm8 d v

/-- The instruction of a word form. -/
def carryInstr16 (op : CarryOp) (form : CarryForm16) : Instr :=
  match op, form with
  | .adc, .rmReg d r => .adcRm16R16 d r
  | .adc, .regRm d o => .adcR16Rm16 d o
  | .adc, .axImm v => .adcAxImm16 v
  | .adc, .rmImm d v => .adcRm16Imm16 d v
  | .adc, .rmSextImm d v => .adcRm16SextImm8 d v
  | .sbb, .rmReg d r => .sbbRm16R16 d r
  | .sbb, .regRm d o => .sbbR16Rm16 d o
  | .sbb, .axImm v => .sbbAxImm16 v
  | .sbb, .rmImm d v => .sbbRm16Imm16 d v
  | .sbb, .rmSextImm d v => .sbbRm16SextImm8 d v

/-- The destination of a byte form. -/
def CarryForm8.dst : CarryForm8 → Rm Reg8
  | .rmReg d _ => d
  | .regRm d _ => .reg d
  | .alImm _ => .reg .al
  | .rmImm d _ => d

/-- The destination of a word form. -/
def CarryForm16.dst : CarryForm16 → Rm Reg16
  | .rmReg d _ => d
  | .regRm d _ => .reg d
  | .axImm _ => .reg .ax
  | .rmImm d _ => d
  | .rmSextImm d _ => d

/-- The value of the source of a byte form, where it can be read. -/
def CarryForm8.source (s : State) : CarryForm8 → Try Byte
  | .rmReg _ r => .ok (s.regs.get8 r)
  | .regRm _ o => size8.readRm s o
  | .alImm v => .ok v
  | .rmImm _ v => .ok v

/-- The value of the source of a word form, where it can be read; the immediate byte is sign-extended (30_encoding.md
R117). -/
def CarryForm16.source (s : State) : CarryForm16 → Try Word
  | .rmReg _ r => .ok (s.regs.get16 r)
  | .regRm _ o => size16.readRm s o
  | .axImm v => .ok v
  | .rmImm _ v => .ok v
  | .rmSextImm _ v => .ok (v.signExtend 16)

/-- The port operand of IN and OUT: an 8-bit immediate or DX (43_io_and_lock.md R211, R212). -/
inductive PortForm where
  | imm (port : Byte)
  | dx
deriving DecidableEq, Repr

/-- The port number, an immediate zero-extended (43_io_and_lock.md R211, R212). -/
def PortForm.port (s : State) : PortForm → Word
  | .imm p => p.setWidth 16
  | .dx => s.regs.dx

/-- IN and OUT of a byte or a word (43_io_and_lock.md R211, R212). -/
inductive PortOp where
  | inByte
  | inWord
  | outByte
  | outWord
deriving DecidableEq, Repr

/-- How many ports are touched. -/
def PortOp.count : PortOp → Nat
  | .inByte => 1
  | .inWord => 2
  | .outByte => 1
  | .outWord => 2

/-- The eight instructions IN and OUT. -/
def portInstr (op : PortOp) (form : PortForm) : Instr :=
  match op, form with
  | .inByte, .imm p => .inAlImm8 p
  | .inByte, .dx => .inAlDx
  | .inWord, .imm p => .inAxImm8 p
  | .inWord, .dx => .inAxDx
  | .outByte, .imm p => .outImm8Al p
  | .outByte, .dx => .outDxAl
  | .outWord, .imm p => .outImm8Ax p
  | .outWord, .dx => .outDxAx

/-- The state after a port access of IN or OUT: the register, the record of the access (20_memory.md R98), nothing else. -/
def PortOp.effect (s : State) (port : Word) : PortOp → State
  | .inByte =>
    (size8.setReg s .al (Config.portByte s.freeIndex port.toNat)).logPort
      (.readByte port (Config.portByte s.freeIndex port.toNat))
  | .inWord =>
    (size16.setReg s .ax (Config.portWord s.freeIndex port.toNat)).logPort
      (.readWord port (Config.portWord s.freeIndex port.toNat))
  | .outByte => s.logPort (.writeByte port (lowByte s.regs.ax))
  | .outWord => s.logPort (.writeWord port s.regs.ax)

/-- The privilege violation of the IOPL rule (43_io_and_lock.md R210). -/
def State.ioplViolated (s : State) : Bool := s.prot && decide (s.flags.iopl < s.cpl)

/-- The instructions that cannot be restarted after a write-protection fault of a memory operand of `n` bytes, with the state
at the trap: undefined is the register operand of XCHG, the six flags of ADC and SBB, CF and OF of RCL and RCR
(45_integer_discrepancies.md R266). -/
def undefinedAfterWriteFault (s : State) (m : MemOperand) (n : Nat) (i : Instr) (t : State) : Prop :=
  (n = 1 ∧ ∃ r, i = .xchgRm8R8 (.mem m) r ∧ t = size8.setReg s r (Config.undefinedByte s.freeIndex)) ∨
  (n = 2 ∧ ∃ r, i = .xchgRm16R16 (.mem m) r ∧ t = size16.setReg s r (Config.undefinedWord s.freeIndex)) ∨
  (n = 1 ∧ ∃ op form, i = carryInstr8 op form ∧ form.dst = .mem m ∧
    t = { s with flags := s.flags.undefinedSix s.freeIndex }) ∨
  (n = 2 ∧ ∃ op form, i = carryInstr16 op form ∧ form.dst = .mem m ∧
    t = { s with flags := s.flags.undefinedSix s.freeIndex }) ∨
  (n = 1 ∧ ∃ op form, op.throughCarry = true ∧ i = shiftInstr8 op form (.mem m) ∧ shiftCount (form.count s) ≠ 0 ∧
    t = { s with flags := s.flags.undefinedCarryOverflow s.freeIndex }) ∨
  (n = 2 ∧ ∃ op form, op.throughCarry = true ∧ i = shiftInstr16 op form (.mem m) ∧ shiftCount (form.count s) ≠ 0 ∧
    t = { s with flags := s.flags.undefinedCarryOverflow s.freeIndex })

end Sys2Proof.Machine
end

