-- ==== Sys2Proof/Certificates/Slice0/Obligations.lean ====
section
/-! DEFINITION. The statements about this model, one `def Obligations.<Name> : Prop` each. -/

section
open Sys2Proof Sys2Proof.Machine

/-! ### Reset, decoding, one step -/

/-- 10_state.md R53: the values the spec gives for RESET, and the first fetch at FFFFF0H. The values of the general
registers, GDTR, LDTR and TR are the model's choice (log entry 1) and are not stated. -/
def Obligations.ResetState : Prop :=
  State.reset.flags.toWord = 0x0002#16 ∧ State.reset.msw = 0xFFF0#16 ∧ State.reset.prot = false ∧
  State.reset.ip = 0xFFF0#16 ∧ State.reset.cs = { val := 0xF000#16, cache := SegCache.resetAt 0xFF0000#24 } ∧
  (∀ r, r ≠ .cs → State.reset.seg r = { val := 0#16, cache := SegCache.resetAt 0#24 }) ∧
  State.reset.idtr = { base := 0#24, limit := 0x03FF#16 } ∧ State.reset.superseded = [] ∧
  lin State.reset .cs State.reset.fetchOffset 1 .fetch = .ok 0xFFFFF0

/-- The state after RESET meets the invariant `State.Inv` (Safety.lean). -/
def Obligations.ResetMeetsInvariant : Prop := State.reset.Inv

/-- Every step keeps the invariant `State.Inv` (Safety.lean), that the prefixes of an instruction fit in 10 bytes (30_encoding.md
R123) among it. What an ESC leaves in the 80287 is a free value (log entry 5), and that a step reads the prefixes one by one is
log entry 7. -/
def Obligations.StepKeepsInvariant : Prop := ∀ s t, s.Inv → step s = .next t → t.Inv

/-- The bytes of a well-formed instruction decode to it, whatever follows them (30_encoding.md R119). -/
def Obligations.DecodeOfEncode : Prop :=
  ∀ i rest, i.wellFormed = true → decode (encode i ++ rest) = .instr i rest

/-- What decodes is the encoding of the instruction and the bytes after it: each instruction has one encoding
(30_encoding.md R119). -/
def Obligations.EncodeOfDecode : Prop :=
  ∀ bytes i rest, decode bytes = .instr i rest → i.wellFormed = true ∧ encode i ++ rest = bytes

/-- Words written out from 30_encoding.md R119 and the examples of the instruction rules decode to what they stand for. -/
def Obligations.EncodedWords : Prop :=
  decode [0x0F#8, 0x05#8] = .instr .loadall [] ∧
  decode [0x8E#8, 0xC0#8] = .instr (.movSregRm16 .es (.reg .ax)) [] ∧
  decode [0x8B#8, 0x07#8] = .instr (.movR16Rm16 .ax (.mem (.based .bx .none))) [] ∧
  decode [0xF6#8, 0xFB#8] = .instr (.idivRm8 (.reg .bl)) [] ∧
  decode [0xD2#8, 0xC0#8] = .instr (.rolRm8Cl (.reg .al)) [] ∧
  decode [0xEA#8, 0x5B#8, 0xE0#8, 0x00#8, 0xF0#8] = .instr (.jmpFar 0xE05B#16 0xF000#16) [] ∧
  decode [0xCD#8, 0x21#8] = .instr (.intImm8 0x21#8) [] ∧
  decode [0xDB#8, 0xE4#8] = .instr .fsetpm []

/-- 30_encoding.md R120, R122: the encodings named there are refused by name, for every operand; and so are instructions that
00_scope.md R8 names, whose bytes are the family's (log entry 35). That the latter and the repeat prefixes are refused whatever
bytes follow, also none, is the model's choice (DESIGN CHOICE, log entry 40). -/
def Obligations.RefusedEncodings : Prop :=
  ∀ (o : Rm (BitVec 3)) (imm : Byte) (word : Word) (t : List Byte), o.wellFormed = true →
    (∀ op ∈ [0xC0#8, 0xC1#8], decode (op :: (encodeRm 6#3 o ++ imm :: t)) = .reject .shiftGroupSix) ∧
    (∀ op ∈ [0xD0#8, 0xD1#8, 0xD2#8, 0xD3#8], decode (op :: (encodeRm 6#3 o ++ t)) = .reject .shiftGroupSix) ∧
    decode (0x8E#8 :: (encodeRm 1#3 o ++ t)) = .reject .movIntoCs ∧
    (∀ op ∈ [0x8C#8, 0x8E#8], ∀ reg : BitVec 3, 4#3 ≤ reg →
      decode (op :: (encodeRm reg o ++ t)) = .reject (.segmentField reg)) ∧
    (∀ op ∈ [0xC4#8, 0xC5#8], ∀ reg rm : BitVec 3, decode (op :: (encodeRm reg (.reg rm) ++ t)) = .reject .farPointerRegister) ∧
    (∀ op ∈ [0x80#8, 0x83#8], ∀ reg : BitVec 3, reg ≠ 2#3 → reg ≠ 3#3 →
      decode (op :: (encodeRm reg o ++ imm :: t)) = .reject (.arithmeticGroupMember reg)) ∧
    (∀ reg : BitVec 3, reg ≠ 2#3 → reg ≠ 3#3 →
      decode (0x81#8 :: (encodeRm reg o ++ (wordBytes word ++ t))) = .reject (.arithmeticGroupMember reg)) ∧
    (∀ op ∈ [0xF6#8, 0xF7#8], ∀ reg : BitVec 3, reg ≠ 6#3 → reg ≠ 7#3 →
      decode (op :: (encodeRm reg o ++ t)) = .reject (.unaryGroupMember reg)) ∧
    (∀ op ∈ [0xF2#8, 0xF3#8], decode (op :: t) = .reject (.repeatPrefix op)) ∧
    (∀ p ∈ [(0xE8#8, Excluded.call), (0xC3#8, .ret), (0x63#8, .arpl), (0xF4#8, .hlt), (0xC8#8, .enter), (0xC9#8, .leave),
        (0x62#8, .bound), (0x60#8, .pusha), (0x61#8, .popa), (0x6C#8, .ins), (0x6E#8, .outs), (0xCE#8, .into_),
        (0x74#8, .jcc), (0xA4#8, .movs)], decode (p.1 :: t) = .reject (.excluded p.2)) ∧
    (∀ p ∈ [(0x02#8, Excluded.lar), (0x03#8, .lsl), (0x06#8, .clts)], decode (0x0F#8 :: p.1 :: t) = .reject (.excluded p.2)) ∧
    (∀ p ∈ [(0x00#8, 2#3, Excluded.lldt), (0x00#8, 3#3, .ltr), (0x00#8, 4#3, .verr), (0x00#8, 5#3, .verw),
        (0x01#8, 2#3, .lgdt), (0x01#8, 3#3, .lidt), (0x01#8, 4#3, .smsw), (0x01#8, 6#3, .lmsw)],
      decode (0x0F#8 :: p.1 :: (encodeRm p.2.1 o ++ t)) = .reject (.excluded p.2.2))

/-- A step runs the decoded instruction: where the next step can only run an instruction and the bytes at the program counter
decode to `i`, the step is `exec i` in the state that knows the instruction's length (10_state.md R33, R34). Where `i` is a
prefix, the step is the step from the state that remembers it, so that it runs the instruction with its prefixes (00_scope.md
R14, 30_encoding.md R112; log entry 7). That a LOCK which the IOPL rule forbids is that exception whatever bytes follow it is the
model's choice (DESIGN CHOICE, log entry 36). -/
def Obligations.StepRunsDecodedInstruction : Prop :=
  ∀ s i rest, s.runsInstruction = true → decode (fetchWindow s.fetching) = .instr i rest →
    (s.lock = true → s.lockable (fetchWindow s.fetching) = true) →
    let here := s.atInstruction ((fetchWindow s.fetching).length - rest.length)
    (isPrefix i = false → step s = exec i here) ∧
    (i = .lock → s.ioplViolated = true → step s = exec i here) ∧
    (isPrefix i = true → (i = .lock → s.ioplViolated = false) →
      ∃ t, exec i here = .next t ∧ step s = step t)

/-- The same from the bytes in memory: where a well-formed instruction's bytes lie at the program counter, each at an
address the fetch may reach, and no older byte is in the prefetcher, the step is `exec i`, and of a prefix it goes on with the
bytes after it (10_state.md R33, 30_encoding.md R111, R123). That a LOCK which the IOPL rule forbids is that exception whatever
bytes follow it is the model's choice (DESIGN CHOICE, log entry 36). -/
def Obligations.StepRunsBytesInMemory : Prop :=
  ∀ s i, s.runsInstruction = true → i.wellFormed = true → s.superseded = [] → s.platform.unlockable = [] →
    (encode i).length + s.prefixLen ≤ maxInstrBytes →
    (∀ (k : Nat) (h : k < (encode i).length), ∃ a, lin s .cs (s.fetchOffset + k) 1 .fetch = .ok a ∧
      s.fetching.byteFor .fetch a = (encode i)[k]) →
    let here := s.atInstruction (encode i).length
    (isPrefix i = false → step s = exec i here) ∧
    (i = .lock → s.ioplViolated = true → step s = exec i here) ∧
    (isPrefix i = true → (i = .lock → s.ioplViolated = false) →
      ∃ t, exec i here = .next t ∧ step s = step t)

/-- 10_state.md R34, 92_eei_decisions.md D22: an instruction whose first byte to fetch is beyond the CS limit raises
exception 13 with error code 0 and IP at the offending offset. -/
def Obligations.FetchBeyondLimitTraps : Prop :=
  ∀ s, s.runsInstruction = true → s.prefixLen < maxInstrBytes → s.cs.cache.valid = true → s.cs.cache.expandDown = false →
    s.cs.cache.limit.toNat < s.fetchOffset →
    step s = takeException { s.fetching with ip := BitVec.ofNat 16 s.fetchOffset, ipPastEnd := false }
      .generalProtection (some 0#16)

/-- 10_state.md R45, 60_exceptions.md R318: no step begins with TF = 1, nor in protected mode with different dpl in the CS and
SS entries. That TF is tested first, that both are tested before an interrupt is accepted, and that neither is tested where a
RESET is raised, is the model's choice (DESIGN CHOICE, log entry 25). -/
def Obligations.GuardedStates : Prop :=
  ∀ s, s.prefixLen = 0 → s.inputs.head? ≠ some .reset → s.inputs.head? ≠ some .resetNumeric →
    (s.flags.tf = true → step s = .refused .trapFlagSet) ∧
    (s.flags.tf = false → s.prot = true → s.cs.cache.dpl ≠ s.ss.cache.dpl → step s = .refused .privilegeMismatch)

/-! ### Memory -/

/-- 20_memory.md R78: when `Lin` gives an address, which one, and what it ends in otherwise, in the order of its steps. -/
def Obligations.CheckedAddress : Prop :=
  ∀ (s : State) (r : SegReg) (off n : Nat) (k : Kind), off < 0x10000 → n = 1 ∨ n = 2 →
    let c := (s.seg r).cache
    let writeFails := k = .write ∧ (c.code = true ∨ c.writable = false)
    let readFails := k = .read ∧ c.code = true ∧ c.readable = false
    let inside := (c.expandDown = false ∧ off + n - 1 ≤ c.limit.toNat) ∨
      (c.expandDown = true ∧ c.limit.toNat < off ∧ off + n - 1 ≤ 0xFFFF)
    (∀ a, lin s r off n k = .ok a ↔
      c.valid = true ∧ ¬writeFails ∧ ¬readFails ∧ inside ∧ a = c.base.toNat + off ∧ a + n - 1 < 2 ^ 24) ∧
    (c.valid = false → lin s r off n k = .error (if r = .ss then .refuse .stackEntryInvalid else protectionFault)) ∧
    (c.valid = true → writeFails →
      lin s r off n k = .error (if r = .ss then .refuse .stackEntryNotWritable else protectionFault)) ∧
    (c.valid = true → readFails → lin s r off n k = .error protectionFault) ∧
    (c.valid = true → ¬writeFails → ¬readFails → ¬inside → lin s r off n k = .error (limitFault s r)) ∧
    (c.valid = true → ¬writeFails → ¬readFails → inside → 2 ^ 24 ≤ c.base.toNat + off + n - 1 →
      lin s r off n k = .error (.refuse .beyondPhysicalSpace))

/-- 20_memory.md R84, R85, R90: what a byte store and a word store change, at any address; a word stored in RAM reads back, and
its low byte is the byte at the address; a store where no memory or ROM is changes nothing; the canonical form of memory is
kept. -/
def Obligations.StoreThenLoad : Prop :=
  ∀ (s : State) (a : Nat) (b : Byte) (v : Word),
    WroteByte s (s.setByte a b) a b ∧ WroteWord s (s.setWord a v) a v ∧
    (s.mem.wf = true → s.writableAt a = true → s.writableAt (a + 1) = true → (s.setWord a v).word a = v) ∧
    (s.writableAt a = false → s.setByte a b = s) ∧
    (s.mem.wf = true → (s.setByte a b).mem.wf = true ∧ (s.setWord a v).mem.wf = true)

/-- 20_memory.md R95, R96: a fetch returns the current byte or one that the address has held since the last flush; the
current one where nothing was written there, and everywhere after a jump; a store to RAM makes the byte it replaced one of
them, unless the prefetch window rules the address out. -/
def Obligations.PrefetchedBytes : Prop :=
  ∀ (s : State) (off a : Nat) (v : Byte) (target : Word),
    s.fetchedByte off a ∈ s.byteFor .fetch a :: supersededAt s.superseded a ∧
    ((∀ c ∈ s.superseded, c.1 ≠ a) → s.fetchedByte off a = s.byteFor .fetch a) ∧
    (s.jump target).fetchedByte off a = s.byteFor .fetch a ∧
    (s.absentAt a = false → s.byteFor .fetch a = s.byte a) ∧
    (s.writableAt a = true → s.platform.prefetchWindow = none →
      supersededAt (s.setByte a v).superseded a = s.mem.read a :: supersededAt s.superseded a) ∧
    (∀ b, b ≠ a → supersededAt (s.setByte a v).superseded b = supersededAt s.superseded b)

/-! ### Segment registers, loads and stores -/

/-- 40_segment_register_access.md R140 to R143: in real mode MOV, POP, LES and LDS load a segment register with the paragraph
ID and the base that is 16 times it, and keep every other cache field; a load of SS holds interrupts off; no byte of memory
changes. -/
def Obligations.RealSegmentLoad : Prop :=
  ∀ s i r v f, LoadsSegment s i r v f → s.prot = false →
    exec i s = .next ((f (s.setSeg r { val := v, cache := (s.seg r).cache.atParagraph v })).holdOff r).ended ∧
    SameBytes s ((f (s.setSeg r { val := v, cache := (s.seg r).cache.atParagraph v })).holdOff r).ended

/-- 40_segment_register_access.md R140, R142 to R144, 20_memory.md R78, R83: in protected mode a selector 0000H to 0003H loads
into DS or ES without an exception and marks the entry invalid; every later memory reference through it raises exception 13. -/
def Obligations.NullSelectorLoad : Prop :=
  ∀ s i r v f, LoadsSegment s i r v f → s.prot = true → r = .ds ∨ r = .es → v ≤ 3#16 →
    ∃ t, t = (f (s.setSeg r { val := v, cache := { (s.seg r).cache with valid := false } })).ended ∧
      exec i s = .next t ∧ SameBytes s t ∧
      ∀ off n k, lin t r off n k = .error (.trap .generalProtection (some 0#16))

/-- 40_segment_register_access.md R144, R145, 60_exceptions.md R300, R301: in protected mode a load whose descriptor passes the
checks completes: the value, the cache entry of the descriptor, and the accessed bit set in memory, no other byte changed. In the
default format the descriptor is the one R300 and R301 say. -/
def Obligations.ProtectedSegmentLoad : Prop :=
  ∀ s i r v f d e, LoadsSegment s i r v f → s.prot = true → isNullSelector v = false →
    readDescriptor s .loadedSegment v e = .ok d → d.present = true →
    (r = .ss → rpl v = s.cpl ∧ d.isWritableData = true ∧ d.dpl = s.cpl) →
    (r ≠ .ss → (d.isData = true ∨ d.isReadableCode = true) ∧ s.cpl ≤ d.dpl ∧ (d.isConforming = true ∨ rpl v ≤ d.dpl)) →
    (∃ t, t = ((f ((s.setByte d.rightsAt d.accessed).setSeg r
        { val := v, cache := SegCache.ofAccess d.base d.limit d.access })).holdOff r).ended ∧
      exec i s = .next t ∧ WroteByte s t d.rightsAt d.accessed ∧ (t.seg r).cache.valid = true) ∧
    (s.platform.format = DescFormat.default →
      let a := (if v.getLsbD 2 then s.ldtr.base.toNat else s.gdtr.base.toNat) + v.toNat / 8 * 8
      d.limit = s.wordFor .loadedSegment a ∧
      d.base.toNat = (s.wordFor .loadedSegment (a + 2)).toNat + (s.byteFor .loadedSegment (a + 4)).toNat * 0x10000 ∧
      d.access = s.byteFor .loadedSegment (a + 5) ∧ d.rightsAt = a + 5 ∧ d.accessed = d.access ||| 1#8)

/-- 40_segment_register_access.md R144, R145, 60_exceptions.md R300: what a load of a segment register in protected mode ends in
when a check fails, in the order of the checks; the state at the trap is the one before the instruction. That every descriptor
with dpl less than CPL, that of a conforming code segment included, raises exception 13 is DEDUCED (log entry 17). In both modes
a load whose operand cannot be read, of LES and LDS either word, ends as the access does, in the state before the instruction
(R140, R142, R143, 20_memory.md R78, R88). -/
def Obligations.SegmentLoadFaults : Prop :=
  (∀ s r m e, r ≠ .cs → operandAddress s m 2 .read = .error e → exec (.movSregRm16 r (.mem m)) s = endWith s e) ∧
  (∀ s r i e, popInstr r = some i → stackWord s s.regs.sp = .error e → exec i s = endWith s e) ∧
  (∀ s r i dst m e, farLoadInstr dst m r = some i →
    (operandAddress s m 2 .read = .error e → exec i s = endWith s e) ∧
    (∀ a, operandAddress s m 2 .read = .ok a →
      lin s (s.operandSegment m) (effectiveOffset s.regs m + 2#16).toNat 2 .read = .error e → exec i s = endWith s e)) ∧
  ∀ s i r v f, LoadsSegment s i r v f → s.prot = true →
    let ec := selectorCode v
    let gp := takeException s .generalProtection (some ec)
    let ti := isLocal s.platform.format v
    (r = .ss → isNullSelector v = true → exec i s = takeException s .generalProtection (some 0#16)) ∧
    (isNullSelector v = false → ti = false → s.gdtr.limit.toNat < s.entryOffset v + 7 → exec i s = gp) ∧
    (isNullSelector v = false → ti = true → s.ldtr.limit.toNat < s.entryOffset v + 7 → exec i s = gp) ∧
    (isNullSelector v = false → ti = true → s.ldtr.valid = false → exec i s = gp) ∧
    (s.platform.format = DescFormat.default → ti = v.getLsbD 2 ∧ s.entryOffset v = v.toNat / 8 * 8) ∧
    (∀ d e, isNullSelector v = false → readDescriptor s .loadedSegment v e = .ok d →
      (r ≠ .ss → d.dpl < s.cpl → exec i s = gp) ∧
      (r ≠ .ss → s.cpl ≤ d.dpl → d.isData = false → d.isReadableCode = false → exec i s = gp) ∧
      (r ≠ .ss → s.cpl ≤ d.dpl → d.isConforming = false → d.dpl < rpl v → exec i s = gp) ∧
      (r ≠ .ss → (d.isData = true ∨ d.isReadableCode = true) → s.cpl ≤ d.dpl → (d.isConforming = true ∨ rpl v ≤ d.dpl) →
        d.present = false → exec i s = takeException s .segmentNotPresent (some ec)) ∧
      (r = .ss → (rpl v ≠ s.cpl ∨ d.isWritableData = false ∨ d.dpl ≠ s.cpl) → exec i s = gp) ∧
      (r = .ss → rpl v = s.cpl → d.isWritableData = true → d.dpl = s.cpl → d.present = false →
        exec i s = takeException s .stackFault (some ec)))

/-- 40_segment_register_access.md R147, 20_memory.md R88: MOV of an operand that can be read into a register, byte and word; one
that cannot ends as the access does, in the state before the instruction. -/
def Obligations.LoadRegister : Prop :=
  (∀ (s : State) (dst : Reg8) (src : Rm Reg8) (v : Byte), size8.readRm s src = .ok v →
    exec (.movR8Rm8 dst src) s = .next (size8.setReg s dst v).ended ∧ SameBytes s (size8.setReg s dst v).ended ∧
    (size8.setReg s dst v).regs.get8 dst = v ∧
    ∀ q, q ≠ dst → (size8.setReg s dst v).regs.get8 q = s.regs.get8 q) ∧
  (∀ (s : State) (dst : Reg8) (m : MemOperand) (e : Stop), operandAddress s m 1 .read = .error e →
    exec (.movR8Rm8 dst (.mem m)) s = endWith s e) ∧
  (∀ (s : State) (dst : Reg16) (m : MemOperand) (e : Stop), operandAddress s m 2 .read = .error e →
    exec (.movR16Rm16 dst (.mem m)) s = endWith s e) ∧
  (∀ (s : State) (dst : Reg16) (src : Rm Reg16) (v : Word), size16.readRm s src = .ok v →
    exec (.movR16Rm16 dst src) s = .next (size16.setReg s dst v).ended ∧ SameBytes s (size16.setReg s dst v).ended ∧
    (size16.setReg s dst v).regs.get16 dst = v ∧
    ∀ q, q ≠ dst → (size16.setReg s dst v).regs.get16 q = s.regs.get16 q)

/-- 40_segment_register_access.md R146, R148: MOV of a register or of the visible value of a segment register, in every state of
its cache entry, to a register or to memory; where the memory operand cannot be written it ends as the access does, in the
state before the instruction (20_memory.md R88). -/
def Obligations.StoreRegister : Prop :=
  (∀ (s : State) (d r : Reg8),
    exec (.movRm8R8 (.reg d) r) s = .next (size8.setReg s d (s.regs.get8 r)).ended ∧
    SameBytes s (size8.setReg s d (s.regs.get8 r)).ended) ∧
  (∀ (s : State) (m : MemOperand) (r : Reg8) (a : Nat), operandAddress s m 1 .write = .ok a →
    exec (.movRm8R8 (.mem m) r) s = .next (s.setByte a (s.regs.get8 r)).ended ∧
    WroteByte s (s.setByte a (s.regs.get8 r)).ended a (s.regs.get8 r)) ∧
  (∀ (s : State) (m : MemOperand) (r : Reg8) (e : Stop), operandAddress s m 1 .write = .error e →
    exec (.movRm8R8 (.mem m) r) s = endWith s e) ∧
  (∀ (s : State) (m : MemOperand) (r : Reg16) (q : SegReg) (e : Stop), operandAddress s m 2 .write = .error e →
    exec (.movRm16R16 (.mem m) r) s = endWith s e ∧ exec (.movRm16Sreg (.mem m) q) s = endWith s e) ∧
  (∀ (s : State) (d r : Reg16) (q : SegReg),
    exec (.movRm16R16 (.reg d) r) s = .next (size16.setReg s d (s.regs.get16 r)).ended ∧
    exec (.movRm16Sreg (.reg d) q) s = .next (size16.setReg s d (s.seg q).val).ended ∧
    SameBytes s (size16.setReg s d (s.regs.get16 r)).ended ∧ SameBytes s (size16.setReg s d (s.seg q).val).ended) ∧
  (∀ (s : State) (m : MemOperand) (r : Reg16) (q : SegReg) (a : Nat), operandAddress s m 2 .write = .ok a →
    exec (.movRm16R16 (.mem m) r) s = .next (s.setWord a (s.regs.get16 r)).ended ∧
    exec (.movRm16Sreg (.mem m) q) s = .next (s.setWord a (s.seg q).val).ended ∧
    WroteWord s (s.setWord a (s.regs.get16 r)).ended a (s.regs.get16 r) ∧
    WroteWord s (s.setWord a (s.seg q).val).ended a (s.seg q).val)

/-! ### LOADALL -/

/-- 41_loadall.md R160, R170 to R172: LOADALL, in real mode or at level 0, loads every register and cache entry from the memory
area and continues at the loaded IP; at another level of protected mode it raises exception 13 with error code 0. The area is
where the platform says; the default is the layout of R170 and R171. That an area which is not inside the physical space is
refused is DEDUCED (log entry 12). -/
def Obligations.LoadallLoads : Prop :=
  (∀ s, (s.prot = true → s.cpl ≠ 0#2 → exec .loadall s = takeException s .generalProtection (some 0#16)) ∧
    (s.prot = false ∨ s.cpl = 0#2 → imageInside s.platform.loadall = false →
      exec .loadall s = .refused .beyondPhysicalSpace) ∧
    (s.prot = false ∨ s.cpl = 0#2 → imageInside s.platform.loadall = true →
      let l := s.platform.loadall
      let base (a : Nat) := s.baseFor .data (a + l.base.val)
      let limit (a : Nat) := s.word (a + l.limit.val)
      let rights (a : Nat) := normalRights s.platform.format.bits (s.byte (a + l.rights.val))
      let entry (a : Nat) := SegCache.ofAccess (base a) (limit a) (rights a)
      ∃ t, exec .loadall s = .next t ∧
        t.regs = { ax := s.word l.ax, cx := s.word l.cx, dx := s.word l.dx, bx := s.word l.bx, sp := s.word l.sp,
                   bp := s.word l.bp, si := s.word l.si, di := s.word l.di } ∧
        t.flags = Flags.ofWord (s.word l.flags) ∧ t.ip = s.word l.ip ∧
        t.prot = (s.prot || (s.word l.msw).getLsbD 0) ∧ (∀ k, 1 ≤ k → t.msw.getLsbD k = (s.word l.msw).getLsbD k) ∧
        t.es = { val := s.word l.es, cache := entry l.esEntry } ∧ t.cs = { val := s.word l.cs, cache := entry l.csEntry } ∧
        t.ss = { val := s.word l.ss, cache := entry l.ssEntry } ∧ t.ds = { val := s.word l.ds, cache := entry l.dsEntry } ∧
        t.gdtr = { base := base l.gdtr, limit := limit l.gdtr } ∧ t.idtr = { base := base l.idtr, limit := limit l.idtr } ∧
        t.ldtr = { val := s.word l.ldt, base := base l.ldtEntry, limit := limit l.ldtEntry
                   valid := (rights l.ldtEntry).getLsbD 7 } ∧
        t.tr = { val := s.word l.tr, base := base l.tssEntry, limit := limit l.tssEntry
                 valid := (rights l.tssEntry).getLsbD 7 } ∧
        t.superseded = [])) ∧
  (∀ b, normalRights RightsBits.default b = b) ∧ imageInside LoadallImage.default = true ∧
  LoadallImage.default =
    { msw := 0x806, tr := 0x816, flags := 0x818, ip := 0x81A, ldt := 0x81C, ds := 0x81E, ss := 0x820, cs := 0x822, es := 0x824,
      di := 0x826, si := 0x828, bp := 0x82A, sp := 0x82C, bx := 0x82E, dx := 0x830, cx := 0x832, ax := 0x834,
      esEntry := 0x836, csEntry := 0x83C, ssEntry := 0x842, dsEntry := 0x848, gdtr := 0x84E, ldtEntry := 0x854,
      idtr := 0x85A, tssEntry := 0x860, base := 0, rights := 3, limit := 4 }

/-- 41_loadall.md R173: LOADALL does not touch the 80287, memory, or what is pending; with IF = 1 loaded an interrupt may be
accepted before the next instruction. -/
def Obligations.LoadallKeeps : Prop :=
  ∀ s, s.prot = false ∨ s.cpl = 0#2 → imageInside s.platform.loadall = true →
    ∃ t, exec .loadall s = .next t ∧ t.numeric = s.numeric ∧ t.mem = s.mem ∧ SameBytes s t ∧ t.inputs = s.inputs ∧
      t.exc9Pending = s.exc9Pending ∧ t.ioLog = s.ioLog ∧ t.platform = s.platform ∧
      (s.intShadow = false → t.accepts = (s.word s.platform.loadall.flags).getLsbD 9)

/-! ### Interrupts, exceptions, returns -/

/-- 42_interrupt_and_flag_instructions.md R180, R181, 60_exceptions.md R308: INT in real mode saves the flag word, CS and
`ip1` on the stack, clears IF and TF and continues at the table's entry. -/
def Obligations.SoftwareInterruptReal : Prop :=
  ∀ s i n a1 a2 a3, isInt i n → s.prot = false → 4 * n.toNat + 3 ≤ s.idtr.limit.toNat →
    s.idtr.base.toNat + 4 * n.toNat + 4 ≤ physicalSize →
    stackAddress s (s.regs.sp - 2#16) = .ok a1 → stackAddress s (s.regs.sp - 4#16) = .ok a2 →
    stackAddress s (s.regs.sp - 6#16) = .ok a3 →
    ∃ t, exec i s = .next t ∧
      t = State.finish { ((s.setWord a1 s.flags.toWord).setWord a2 s.cs.val).setWord a3 (BitVec.ofNat 16 s.ip1) with
        regs := { s.regs with sp := s.regs.sp - 6#16 }
        flags := { s.flags with ie := false, tf := false }
        cs := { val := s.wordFor .interruptVector (s.idtr.base.toNat + 4 * n.toNat + 2)
                cache := s.cs.cache.atParagraph (s.wordFor .interruptVector (s.idtr.base.toNat + 4 * n.toNat + 2)) }
        ip := s.wordFor .interruptVector (s.idtr.base.toNat + 4 * n.toNat)
        ipPastEnd := false
        superseded := [] } ∧
      WroteWords s t [(a1, s.flags.toWord), (a2, s.cs.val), (a3, BitVec.ofNat 16 s.ip1)] []

/-- 42_interrupt_and_flag_instructions.md R182, 60_exceptions.md R302, R304: in protected mode an INT whose gate has dpl less than
CPL raises exception 13 with the error code of the IDT vector, EXT clear, and so does one whose gate is outside the IDT limit or
of no gate type; an entry that R305 and R306 refuse is refused by name. That an entry with S = 1 is of no gate type is DEDUCED
(log entry 18). In the default format the code is 8n + 2, and the gate is the one R302 says. -/
def Obligations.SoftwareInterruptGatePrivilege : Prop :=
  ∀ s i n, isInt i n → s.prot = true →
    let trap := takeException s .generalProtection (some (vectorCode s.platform.format n.toNat false))
    let a := s.idtr.base.toNat + 8 * n.toNat
    (∀ g e, readGate s .interruptVector n.toNat e = .ok g → g.dpl < s.cpl → exec i s = trap) ∧
    (∀ g e r, readGate s .interruptVector n.toNat e = .ok g → s.cpl ≤ g.dpl →
      EntryRefused s g [s.flags.toWord, s.cs.val, BitVec.ofNat 16 s.ip1] r → exec i s = .refused r) ∧
    (s.idtr.limit.toNat < 8 * n.toNat + 7 → exec i s = trap) ∧
    (8 * n.toNat + 7 ≤ s.idtr.limit.toNat → a + 8 ≤ physicalSize → (s.gateAt .interruptVector a).type = none →
      exec i s = trap) ∧
    (s.platform.format = DescFormat.default →
      vectorCode s.platform.format n.toNat false = BitVec.ofNat 16 (8 * n.toNat + 2) ∧
      let access := s.byteFor .interruptVector (a + 5)
      let g := s.gateAt .interruptVector a
      g.offset = s.wordFor .interruptVector a ∧ g.selector = s.wordFor .interruptVector (a + 2) ∧
      g.present = access.getLsbD 7 ∧ g.dpl = access.extractLsb' 5 2 ∧
      (g.type = some .task ↔ access.extractLsb' 0 5 = 5#5) ∧ (g.type = some .interrupt ↔ access.extractLsb' 0 5 = 6#5) ∧
      (g.type = some .trap ↔ access.extractLsb' 0 5 = 7#5))

/-- 42_interrupt_and_flag_instructions.md R180, 60_exceptions.md R305: INT through an interrupt gate or a trap gate to a handler
at the same level. -/
def Obligations.SoftwareInterruptSameLevel : Prop :=
  ∀ s i n g e d a1 a2 a3, isInt i n → s.prot = true → readGate s .interruptVector n.toNat e = .ok g → s.cpl ≤ g.dpl →
    SameLevelGate s g d →
    stackAddress s (s.regs.sp - 2#16) = .ok a1 → stackAddress s (s.regs.sp - 4#16) = .ok a2 →
    stackAddress s (s.regs.sp - 6#16) = .ok a3 →
    ∃ t, exec i s = .next t ∧
      t = State.finish
        { (((s.setWord a1 s.flags.toWord).setWord a2 s.cs.val).setWord a3 (BitVec.ofNat 16 s.ip1)).setByte d.rightsAt
            d.accessed with
          regs := { s.regs with sp := s.regs.sp - 6#16 }
          flags := { s.flags with tf := false, nt := false, ie := if g.type = some .interrupt then false else s.flags.ie }
          cs := { val := (g.selector &&& 0xFFFC#16) ||| s.cpl.setWidth 16
                  cache := { SegCache.ofAccess d.base d.limit d.access with dpl := s.cpl } }
          ip := g.offset
          ipPastEnd := false
          superseded := [] } ∧
      WroteWords s t [(a1, s.flags.toWord), (a2, s.cs.val), (a3, BitVec.ofNat 16 s.ip1)] [d.rightsAt]

/-- 60_exceptions.md R303, R305: INT through a gate to a handler at a more privileged level: SS and SP come from the TSS, the old
SS and SP are pushed on the new stack before the flag word, CS and `ip1`, and the level becomes the handler's; DS, ES, and every
general register but SP keep their values. In the default format the SP and SS of a level are at 2 and 4 bytes into the TSS and
4 further for each level. -/
def Obligations.SoftwareInterruptInnerLevel : Prop :=
  ∀ s i n g e d d2 a1 a2 a3 a4 a5, isInt i n → s.prot = true → readGate s .interruptVector n.toNat e = .ok g →
    s.cpl ≤ g.dpl → InnerLevelGate s g d d2 →
    let sp2 := s.wordFor .innerPointer (s.innerSpAt d.dpl)
    let inner := s.onInnerStack d.dpl d2
    stackAddress inner (sp2 - 2#16) = .ok a1 → stackAddress inner (sp2 - 4#16) = .ok a2 →
    stackAddress inner (sp2 - 6#16) = .ok a3 → stackAddress inner (sp2 - 8#16) = .ok a4 →
    stackAddress inner (sp2 - 10#16) = .ok a5 →
    (∃ t, exec i s = .next t ∧ t.ss = inner.ss ∧ Entered s t g d d.dpl (sp2 - 10#16) ∧
      WroteWords s t [(a1, s.ss.val), (a2, s.regs.sp), (a3, s.flags.toWord), (a4, s.cs.val), (a5, BitVec.ofNat 16 s.ip1)]
        [d2.rightsAt, d.rightsAt]) ∧
    (s.platform.format = DescFormat.default →
      s.innerSpAt d.dpl = s.tr.base.toNat + 2 + 4 * d.dpl.toNat ∧ s.innerSsAt d.dpl = s.tr.base.toNat + 4 + 4 * d.dpl.toNat)

/-- 60_exceptions.md R286, R308: taking an exception in real mode: the frame is that of an INT with the address in IP, and no
error code is pushed. -/
def Obligations.ExceptionEntryReal : Prop :=
  ∀ s x ec a1 a2 a3, s.prot = false → 4 * x.vector + 3 ≤ s.idtr.limit.toNat →
    s.idtr.base.toNat + 4 * x.vector + 4 ≤ physicalSize →
    stackAddress s (s.regs.sp - 2#16) = .ok a1 → stackAddress s (s.regs.sp - 4#16) = .ok a2 →
    stackAddress s (s.regs.sp - 6#16) = .ok a3 →
    ∃ t, takeException s x ec = .next t ∧
      t = State.finish { ((s.setWord a1 s.flags.toWord).setWord a2 s.cs.val).setWord a3 s.ip with
        regs := { s.regs with sp := s.regs.sp - 6#16 }
        flags := { s.flags with ie := false, tf := false }
        cs := { val := s.wordFor .exceptionVector (s.idtr.base.toNat + 4 * x.vector + 2)
                cache := s.cs.cache.atParagraph (s.wordFor .exceptionVector (s.idtr.base.toNat + 4 * x.vector + 2)) }
        ip := s.wordFor .exceptionVector (s.idtr.base.toNat + 4 * x.vector)
        ipPastEnd := false
        superseded := [] } ∧
      WroteWords s t [(a1, s.flags.toWord), (a2, s.cs.val), (a3, s.ip)] []

/-- 60_exceptions.md R305, 42_interrupt_and_flag_instructions.md R183: taking an exception in protected mode, with an error code
or without one, whatever the dpl of the gate: to a handler at the same level, and to one at a more privileged level, on whose
stack the old SS and SP are pushed first; the error code is pushed last. Where the vector has no gate the step is refused (R312;
log entry 19), and so is an entry that R305 and R306 refuse, by name. -/
def Obligations.ExceptionEntrySameLevel : Prop :=
  (∀ s x ec, s.prot = true →
    let a := s.idtr.base.toNat + 8 * x.vector
    (s.idtr.limit.toNat < 8 * x.vector + 7 → takeException s x ec = .refused .faultDuringEntry) ∧
    (8 * x.vector + 7 ≤ s.idtr.limit.toNat → a + 8 ≤ physicalSize → (s.gateAt .exceptionVector a).type = none →
      takeException s x ec = .refused .faultDuringEntry)) ∧
  ∀ s x ec g e d l sp, s.prot = true → readGate s .exceptionVector x.vector e = .ok g →
    let saved := [s.flags.toWord, s.cs.val, s.ip] ++ ec.toList
    (∀ r, EntryRefused s g saved r → takeException s x ec = .refused r) ∧
    (SameLevelGate s g d → Frame s s.regs.sp saved l sp →
      ∃ t, takeException s x ec = .next t ∧ t.ss = s.ss ∧ Entered s t g d s.cpl sp ∧ WroteWords s t l [d.rightsAt]) ∧
    (∀ d2, InnerLevelGate s g d d2 →
      Frame (s.onInnerStack d.dpl d2) (s.wordFor .innerPointer (s.innerSpAt d.dpl)) ([s.ss.val, s.regs.sp] ++ saved) l sp →
      ∃ t, takeException s x ec = .next t ∧ t.ss = (s.onInnerStack d.dpl d2).ss ∧ Entered s t g d d.dpl sp ∧
        WroteWords s t l [d2.rightsAt, d.rightsAt])

/-- 42_interrupt_and_flag_instructions.md R193: IRET in real mode takes IP, CS and the flag word from the stack; where one of
the three words cannot be read it ends as the stack access does, with all state unchanged. -/
def Obligations.ReturnReal : Prop :=
  (∀ s e, s.prot = false → stackWord s s.regs.sp = .error e → exec .iret s = endWith s e) ∧
  (∀ s ip e, s.prot = false → stackWord s s.regs.sp = .ok ip → stackWord s (s.regs.sp + 2#16) = .error e →
    exec .iret s = endWith s e) ∧
  (∀ s ip cs e, s.prot = false → stackWord s s.regs.sp = .ok ip → stackWord s (s.regs.sp + 2#16) = .ok cs →
    stackWord s (s.regs.sp + 4#16) = .error e → exec .iret s = endWith s e) ∧
  ∀ s ip cs v, s.prot = false → stackWord s s.regs.sp = .ok ip → stackWord s (s.regs.sp + 2#16) = .ok cs →
    stackWord s (s.regs.sp + 4#16) = .ok v →
    ∃ t, exec .iret s = .next t ∧
      t = State.finish { s with
        regs := { s.regs with sp := s.regs.sp + 6#16 }
        flags := if s.platform.realModeHighFlags then Flags.ofWord v
          else { Flags.ofWord v with iopl := 0#2, nt := false }
        cs := { val := cs, cache := s.cs.cache.atParagraph cs }
        ip := ip
        ipPastEnd := false
        superseded := [] } ∧
      SameBytes s t

/-- 42_interrupt_and_flag_instructions.md R189, R193: IRET in protected mode with NT = 0: to the same level; and what it ends in
when the frame cannot be read or a check of the code segment fails, in the order of the checks, with all state unchanged. That
the offsets of the frame are not reduced mod 2^16 is DEDUCED (log entry 33). -/
def Obligations.ReturnSameLevel : Prop :=
  ∀ s, s.prot = true → s.flags.nt = false →
    (∀ e, frameWord s 0 = .error e → exec .iret s = endWith s e) ∧
    (∀ ip e, frameWord s 0 = .ok ip → frameWord s 2 = .error e → exec .iret s = endWith s e) ∧
    (∀ ip cs e, frameWord s 0 = .ok ip → frameWord s 2 = .ok cs →
      frameWord s 4 = .error e → exec .iret s = endWith s e) ∧
    (∀ ip cs v, frameWord s 0 = .ok ip → frameWord s 2 = .ok cs →
      frameWord s 4 = .ok v →
      let ec := selectorCode cs
      let gp := takeException s .generalProtection (some ec)
      (isNullSelector cs = true ∨ rpl cs < s.cpl → exec .iret s = gp) ∧
      (isNullSelector cs = false → s.cpl ≤ rpl cs →
        (isLocal s.platform.format cs = false → s.gdtr.limit.toNat < s.entryOffset cs + 7 → exec .iret s = gp) ∧
        (isLocal s.platform.format cs = true → s.ldtr.valid = false ∨ s.ldtr.limit.toNat < s.entryOffset cs + 7 →
          exec .iret s = gp) ∧
        (∀ d e, readDescriptor s .returnCode cs e = .ok d →
          let levelOk := d.dpl = rpl cs ∨ (d.isConforming = true ∧ d.dpl ≤ rpl cs)
          (d.isCode = false → exec .iret s = gp) ∧
          (d.isCode = true → d.present = false → exec .iret s = takeException s .segmentNotPresent (some ec)) ∧
          (d.isCode = true → d.present = true → ¬levelOk → exec .iret s = gp) ∧
          (d.isCode = true → d.present = true → levelOk → rpl cs = s.cpl → d.limit < ip →
            exec .iret s = takeException s .generalProtection (some 0#16)) ∧
          (d.isCode = true → d.present = true → levelOk → rpl cs = s.cpl → ip ≤ d.limit →
            ∃ t, exec .iret s = .next t ∧
              t = State.finish { s.setByte d.rightsAt d.accessed with
                regs := { s.regs with sp := s.regs.sp + 6#16 }
                flags := { Flags.ofWord v with
                  ie := if s.cpl ≤ s.flags.iopl then v.getLsbD 9 else s.flags.ie
                  iopl := if s.cpl = 0#2 then v.extractLsb' 12 2 else s.flags.iopl }
                cs := { val := cs, cache := { SegCache.ofAccess d.base d.limit d.access with dpl := s.cpl } }
                ip := ip
                ipPastEnd := false
                superseded := [] } ∧
              WroteByte s t d.rightsAt d.accessed))))

/-- 42_interrupt_and_flag_instructions.md R193, 40_segment_register_access.md R145: IRET in protected mode with NT = 0 to an outer
level: SP and SS come from the stack, DS and ES become null where the new level may not use them, and the flags are loaded with
the old level; and what it ends in when SP and SS cannot be read or a check of SS or of IP fails, with all state unchanged. That
the offsets of the frame are not reduced mod 2^16 is DEDUCED (log entry 33). -/
def Obligations.ReturnOuterLevel : Prop :=
  ∀ s ip cs v d e, s.prot = true → s.flags.nt = false → frameWord s 0 = .ok ip →
    frameWord s 2 = .ok cs → frameWord s 4 = .ok v → isNullSelector cs = false →
    s.cpl < rpl cs → readDescriptor s .returnCode cs e = .ok d → d.isCode = true → d.present = true →
    d.dpl = rpl cs ∨ (d.isConforming = true ∧ d.dpl ≤ rpl cs) →
    (∀ e, frameWord s 6 = .error e → exec .iret s = endWith s e) ∧
    (∀ sp e, frameWord s 6 = .ok sp → frameWord s 8 = .error e →
      exec .iret s = endWith s e) ∧
    (∀ sp ss, frameWord s 6 = .ok sp → frameWord s 8 = .ok ss →
      let ec := selectorCode ss
      let gp := takeException s .generalProtection (some ec)
      (isNullSelector ss = true → exec .iret s = takeException s .generalProtection (some 0#16)) ∧
      (isNullSelector ss = false →
        (isLocal s.platform.format ss = false → s.gdtr.limit.toNat < s.entryOffset ss + 7 → exec .iret s = gp) ∧
        (isLocal s.platform.format ss = true → s.ldtr.valid = false ∨ s.ldtr.limit.toNat < s.entryOffset ss + 7 →
          exec .iret s = gp) ∧
        (∀ d2 e2, readDescriptor s .returnStack ss e2 = .ok d2 →
          let stackOk := rpl ss = rpl cs ∧ d2.isWritableData = true ∧ d2.dpl = rpl cs
          (¬stackOk → exec .iret s = gp) ∧
          (stackOk → d2.present = false → exec .iret s = takeException s .stackFault (some ec)) ∧
          (stackOk → d2.present = true → d.limit < ip →
            exec .iret s = takeException s .generalProtection (some 0#16)) ∧
          (stackOk → d2.present = true → ip ≤ d.limit →
            ∃ t, exec .iret s = .next t ∧
              t.cs = { val := cs, cache := { SegCache.ofAccess d.base d.limit d.access with dpl := rpl cs } } ∧
              t.ss = { val := ss, cache := SegCache.ofAccess d2.base d2.limit d2.access } ∧
              t.cpl = rpl cs ∧ t.ip = ip ∧ t.regs = { s.regs with sp := sp } ∧
              t.flags = { Flags.ofWord v with
                ie := if s.cpl ≤ s.flags.iopl then v.getLsbD 9 else s.flags.ie
                iopl := if s.cpl = 0#2 then v.extractLsb' 12 2 else s.flags.iopl } ∧
              t.ds = dropInner s.ds (rpl cs) ∧ t.es = dropInner s.es (rpl cs) ∧ SameSystem s t ∧ t.numeric = s.numeric ∧
              t.superseded = [] ∧
              (∀ b, b ≠ d.rightsAt → b ≠ d2.rightsAt → t.byte b = s.byte b)))))

/-- 42_interrupt_and_flag_instructions.md R195: IRET in protected mode with NT = 1 reads the back link of the current TSS: 0
raises exception 13 with error code 0, and anything else is a task switch, which is refused. -/
def Obligations.ReturnNested : Prop :=
  ∀ s, s.prot = true → s.flags.nt = true →
    let a := s.tr.base.toNat + s.platform.format.backLink
    a + 2 ≤ physicalSize →
    (s.wordFor .backLink a = 0#16 → exec .iret s = takeException s .generalProtection (some 0#16)) ∧
    (s.wordFor .backLink a ≠ 0#16 → exec .iret s = .refused .taskSwitch) ∧
    DescFormat.default.backLink = 0

/-! ### The flag word, IF and IOPL -/

/-- 42_interrupt_and_flag_instructions.md R188: PUSHF stores the flag word below SP at every level and IOPL and changes no
flag; its only exceptions are those of the stack access. The word saved has the layout of 10_state.md R35. -/
def Obligations.PushFlags : Prop :=
  ∀ s, (∀ a, stackAddress s (s.regs.sp - 2#16) = .ok a →
      exec .pushf s = .next ((s.setWord a s.flags.toWord).setSp (s.regs.sp - 2#16)).ended ∧
      WroteWord s ((s.setWord a s.flags.toWord).setSp (s.regs.sp - 2#16)).ended a s.flags.toWord) ∧
    (∀ e, stackAddress s (s.regs.sp - 2#16) = .error e → exec .pushf s = endWith s e) ∧
    (let w := s.flags.toWord
     w.getLsbD 0 = s.flags.cf ∧ w.getLsbD 1 = true ∧ w.getLsbD 2 = s.flags.pf ∧ w.getLsbD 3 = false ∧
     w.getLsbD 4 = s.flags.af ∧ w.getLsbD 5 = false ∧ w.getLsbD 6 = s.flags.zf ∧ w.getLsbD 7 = s.flags.sf ∧
     w.getLsbD 8 = s.flags.tf ∧ w.getLsbD 9 = s.flags.ie ∧ w.getLsbD 10 = s.flags.df ∧ w.getLsbD 11 = s.flags.ovf ∧
     w.extractLsb' 12 2 = s.flags.iopl ∧ w.getLsbD 14 = s.flags.nt ∧ w.getLsbD 15 = false) ∧
    decode [0x9C#8] = .instr .pushf []

/-- 42_interrupt_and_flag_instructions.md R189, R190: POPF takes a word from the stack: IF changes only when CPL <= IOPL, IOPL
only at level 0, NT at every level, and every other flag always; on an exception of the stack access nothing changes. -/
def Obligations.PopFlags : Prop :=
  ∀ s, (∀ v, stackWord s s.regs.sp = .ok v →
      ∃ t, exec .popf s = .next t ∧ { t with flags := s.flags } = (s.setSp (s.regs.sp + 2#16)).ended ∧ SameBytes s t ∧
        t.flags.cf = v.getLsbD 0 ∧ t.flags.pf = v.getLsbD 2 ∧ t.flags.af = v.getLsbD 4 ∧ t.flags.zf = v.getLsbD 6 ∧
        t.flags.sf = v.getLsbD 7 ∧ t.flags.tf = v.getLsbD 8 ∧ t.flags.df = v.getLsbD 10 ∧ t.flags.ovf = v.getLsbD 11 ∧
        (s.prot = true → t.flags.ie = (if s.cpl ≤ s.flags.iopl then v.getLsbD 9 else s.flags.ie) ∧
          t.flags.iopl = (if s.cpl = 0#2 then v.extractLsb' 12 2 else s.flags.iopl) ∧ t.flags.nt = v.getLsbD 14) ∧
        (s.prot = false → t.flags.ie = v.getLsbD 9 ∧
          t.flags.iopl = (if s.platform.realModeHighFlags then v.extractLsb' 12 2 else 0#2) ∧
          t.flags.nt = (s.platform.realModeHighFlags && v.getLsbD 14))) ∧
    (∀ e, stackWord s s.regs.sp = .error e → exec .popf s = endWith s e) ∧ decode [0x9D#8] = .instr .popf []

/-- 42_interrupt_and_flag_instructions.md R196, R197: STI and CLI write IF and nothing else, unless CPL > IOPL in protected
mode, where they raise exception 13 with error code 0. That an interrupt may be accepted at the first boundary after STI is the
spec's decision D20 (92_eei_decisions.md), which the model reads so (DEDUCED, log entry 24). -/
def Obligations.InterruptFlag : Prop :=
  ∀ s, (s.ioplViolated = false →
      exec .sti s = .next (State.ended { s with flags := { s.flags with ie := true } }) ∧
      exec .cli s = .next (State.ended { s with flags := { s.flags with ie := false } }) ∧
      (s.intShadow = false → (State.ended { s with flags := { s.flags with ie := true } }).accepts = true) ∧
      (State.ended { s with flags := { s.flags with ie := false } }).accepts = false ∧
      SameBytes s (State.ended { s with flags := { s.flags with ie := true } }) ∧
      SameBytes s (State.ended { s with flags := { s.flags with ie := false } })) ∧
    (s.ioplViolated = true →
      exec .sti s = takeException s .generalProtection (some 0#16) ∧
      exec .cli s = takeException s .generalProtection (some 0#16)) ∧
    decode [0xFB#8] = .instr .sti [] ∧ decode [0xFA#8] = .instr .cli []

/-- 43_io_and_lock.md R210: IN, OUT, STI, CLI and LOCK raise exception 13 with error code 0 when CPL > IOPL in protected mode,
before any operand is read, and no test is made in real mode. -/
def Obligations.IoplRule : Prop :=
  ∀ s, (s.prot = false → s.ioplViolated = false) ∧
    (s.prot = true → s.cpl ≤ s.flags.iopl → s.ioplViolated = false) ∧
    (s.prot = true → s.flags.iopl < s.cpl →
      (∀ op form, exec (portInstr op form) s = takeException s .generalProtection (some 0#16)) ∧
      exec .sti s = takeException s .generalProtection (some 0#16) ∧
      exec .cli s = takeException s .generalProtection (some 0#16) ∧
      exec .lock s = takeException s .generalProtection (some 0#16))

/-! ### Ports and prefixes -/

/-- 43_io_and_lock.md R211, R212, 20_memory.md R98: IN and OUT, with an immediate port or DX, of a byte and of a word: the
access is recorded in order, IN writes AL or AX, nothing else changes. What a read returns is a free value (log entry 4); that an
access changes nothing else, and no memory, is DEDUCED (log entry 29). -/
def Obligations.PortAccess : Prop :=
  ∀ s op form, s.ioplViolated = false →
    0xFF < (form.port s).toNat ∨ (form.port s).toNat + op.count ≤ 0xF8 →
    exec (portInstr op form) s = .next (op.effect s (form.port s)).ended ∧
    SameBytes s (op.effect s (form.port s)).ended

/-- 20_memory.md R99: an IN or OUT any byte of which touches a port in 00F8H to 00FFH is refused; the IOPL check comes
first. -/
def Obligations.ReservedPorts : Prop :=
  ∀ s op form, (∃ p, (form.port s).toNat ≤ p ∧ p < (form.port s).toNat + op.count ∧ 0xF8 ≤ p ∧ p ≤ 0xFF) →
    (s.ioplViolated = false → exec (portInstr op form) s = .refused .reservedPort) ∧
    (s.ioplViolated = true → exec (portInstr op form) s = takeException s .generalProtection (some 0#16))

/-- 30_encoding.md R112, 43_io_and_lock.md R216: a segment prefix and LOCK are remembered for the instruction they belong to and
change nothing else; a segment prefix replaces the default segment of a memory operand. -/
def Obligations.PrefixesRemembered : Prop :=
  ∀ s, (∀ r, ∃ t, exec (prefixInstr r) s = .next t ∧
      t = { s with override := some r, prefixLen := s.prefixLen + 1 } ∧ SameBytes s t ∧
      ∀ m n k, operandAddress t m n k = lin s r (effectiveOffset s.regs m).toNat n k) ∧
    (s.ioplViolated = false → ∃ t, exec .lock s = .next t ∧
      t = { s with lock := true, prefixLen := s.prefixLen + 1 } ∧ SameBytes s t)

/-! ### The 80287 -/

/-- 44_numeric_coprocessor.md R231: WAIT, in the order of its checks. That it ends at once, with the 80287 idle and no new error,
when it meets a busy one is DEDUCED (log entry 30). -/
def Obligations.WaitForNumeric : Prop :=
  ∀ s, ((s.ts && s.mp) = true → exec .wait s = takeException s .extensionNotAvailable none) ∧
    ((s.ts && s.mp) = false → s.numeric.busy = .stuck → exec .wait s = .refused .coprocessorStuck) ∧
    ((s.ts && s.mp) = false → s.numeric.busy ≠ .stuck → s.numeric.errorPending = true →
      exec .wait s = takeException s .extensionError none) ∧
    ((s.ts && s.mp) = false → s.numeric.busy ≠ .stuck → s.numeric.errorPending = false →
      exec .wait s = .next (State.ended { s with numeric := { s.numeric with busy := .idle } }) ∧
      SameBytes s (State.ended { s with numeric := { s.numeric with busy := .idle } })) ∧
    decode [0x9B#8] = .instr .wait []

/-- 44_numeric_coprocessor.md R229, R232, R233: FNINIT and FSETPM, which wait for nothing and test no pending error. FNINIT
completes whatever the 80287 does, also when it is stuck, and leaves its mode, and its stored addresses undefined; FSETPM
completes unless the 80287 is stuck, where it is refused. What FNINIT leaves in the other bits of the status and control words
is a free value (log entry 37). -/
def Obligations.NumericControl : Prop :=
  ∀ s, ((s.ts || s.em) = true →
      exec .fninit s = takeException s .extensionNotAvailable none ∧
      exec .fsetpm s = takeException s .extensionNotAvailable none) ∧
    ((s.ts || s.em) = false → s.numeric.busy ≠ .stuck →
      exec .fsetpm s = .next (State.ended { s with numeric := { s.numeric with mode := .prot } }) ∧
      SameBytes s (State.ended { s with numeric := { s.numeric with mode := .prot } })) ∧
    ((s.ts || s.em) = false → s.numeric.busy = .stuck → exec .fsetpm s = .refused .coprocessorStuck) ∧
    ((s.ts || s.em) = false →
      ∃ t, exec .fninit s = .next t ∧ { t with numeric := s.numeric } = s.ended ∧ SameBytes s t ∧
        t.numeric.busy = .idle ∧ (∀ k : Fin 8, t.numeric.tags[k] = true) ∧ t.numeric.top = 0#3 ∧
        t.numeric.masks = 0x3F#6 ∧ t.numeric.errorPending = false ∧ t.numeric.mode = s.numeric.mode)

/-- 44_numeric_coprocessor.md R225, R227, R229, R236, R237: an ESC whose checks pass completes: the stored addresses come from
the visible register values and the offset of the first prefix; of the `n` words of a memory operand the first `k` are
transferred, all of them or those before the first that is not inside the limit, in which case the 80287 is left stuck and
exception 9 pending. What the 80287 computes, and how many words an operand has, is a free value (log entry 5); that the stored
operand address stays without a memory operand is the model's choice (log entry 32), and so is that a second pending exception 9
merges with the first (log entry 34). -/
def Obligations.EscapeCompletes : Prop :=
  ∀ s op reg, (s.ts || s.em) = false → s.numeric.busy ≠ .stuck → s.numeric.errorPending = false →
    (∀ rm, ∃ t, exec (.esc op reg (.reg rm)) s = .next t ∧ { t with numeric := s.numeric } = s.ended ∧ SameBytes s t ∧
      t.numeric.mode = s.numeric.mode ∧ t.numeric.busy = .busy ∧
      t.numeric.fip = numericAddress s.numeric.mode s.cs.val s.ip ∧ t.numeric.fdp = s.numeric.fdp) ∧
    (∀ m a, operandAddress s m 2 (escapeKind op reg) = .ok a →
      (s.seg (s.operandSegment m)).cache.base.toNat + 0x10000 ≤ physicalSize →
      let n := Config.numericMoreWords op reg + 1
      let off := (effectiveOffset s.regs m).toNat
      let c := (s.seg (s.operandSegment m)).cache
      let inside (j : Nat) : Prop := (c.expandDown = false ∧ off + 2 * j + 1 ≤ c.limit.toNat) ∨
        (c.expandDown = true ∧ c.limit.toNat < off + 2 * j ∧ off + 2 * j + 1 ≤ 0xFFFF)
      ∃ k t, k ≤ n ∧ (∀ j, j < k → inside j) ∧ (k < n → ¬inside k) ∧ exec (.esc op reg (.mem m)) s = .next t ∧
        { t with numeric := s.numeric, mem := s.mem, superseded := s.superseded, exc9Pending := s.exc9Pending } = s.ended ∧
        t.numeric.mode = s.numeric.mode ∧
        t.numeric.fip = numericAddress s.numeric.mode s.cs.val s.ip ∧
        t.numeric.fdp = numericAddress s.numeric.mode (s.seg (s.operandSegment m)).val (effectiveOffset s.regs m) ∧
        t.numeric.busy = (if k < n then .stuck else .busy) ∧ t.exc9Pending = (s.exc9Pending || decide (k < n)) ∧
        if escapeKind op reg = .write then ∀ b, b < a ∨ a + 2 * k ≤ b → t.byte b = s.byte b
        else SameBytes s t)

/-- 44_numeric_coprocessor.md R225, R228 to R230: the checks of an ESC in their order, each before the instruction does
anything. -/
def Obligations.EscapeChecks : Prop :=
  ∀ s op reg o, ((s.ts || s.em) = true → exec (.esc op reg o) s = takeException s .extensionNotAvailable none) ∧
    ((s.ts || s.em) = false → s.numeric.busy = .stuck → exec (.esc op reg o) s = .refused .coprocessorStuck) ∧
    ((s.ts || s.em) = false → s.numeric.busy ≠ .stuck → s.numeric.errorPending = true →
      exec (.esc op reg o) s = takeException s .extensionError none) ∧
    ((s.ts || s.em) = false → s.numeric.busy ≠ .stuck → s.numeric.errorPending = false →
      ∀ m e, o = .mem m → operandAddress s m 2 (escapeKind op reg) = .error e → exec (.esc op reg o) s = endWith s e)

/-! ### Integer instructions -/

/-- 45_integer_discrepancies.md R250: PUSH SP stores the value of SP before the instruction and decrements SP by 2 modulo 2^16;
when the word is not inside the stack segment it ends as the stack access does, with SP unchanged. -/
def Obligations.PushStackPointer : Prop :=
  ∀ s, (∀ a, stackAddress s (s.regs.sp - 2#16) = .ok a →
      exec .pushSp s = .next ((s.setWord a s.regs.sp).setSp (s.regs.sp - 2#16)).ended ∧
      WroteWord s ((s.setWord a s.regs.sp).setSp (s.regs.sp - 2#16)).ended a s.regs.sp) ∧
    (∀ e, stackAddress s (s.regs.sp - 2#16) = .error e → exec .pushSp s = endWith s e) ∧
    (s.prot = true → s.ss.cache.valid = true → s.ss.cache.code = false → s.ss.cache.writable = true →
      s.ss.cache.expandDown = false → s.regs.sp = 1#16 ∨ s.ss.cache.limit.toNat < (s.regs.sp - 2#16).toNat + 1 →
      exec .pushSp s = takeException s .stackFault (some 0#16)) ∧
    decode [0x54#8] = .instr .pushSp []

/-- 45_integer_discrepancies.md R270: NOP moves IP to `ip1` and does nothing else; it does not flush the prefetcher. -/
def Obligations.NoOperation : Prop :=
  ∀ s, exec .nop s = .next s.ended ∧ SameBytes s s.ended ∧ s.ended.superseded = s.superseded ∧
    s.ended.ip = BitVec.ofNat 16 s.ip1 ∧ decode [0x90#8] = .instr .nop []

/-- 45_integer_discrepancies.md R271, R272: a near jump goes to `ip1` plus the displacement modulo 2^16 and a far jump in real
mode to the pointer, both inside the CS limit, and both flush the prefetcher; a target beyond the limit raises exception 13
with IP at the jump; a far jump in protected mode is refused. -/
def Obligations.Jumps : Prop :=
  ∀ s, (∀ t, (s.jump t).superseded = [] ∧ SameBytes s (s.jump t).finish) ∧
    (∀ rel : Byte,
      let t := BitVec.ofInt 16 ((s.ip1 : Int) + rel.toInt)
      (t ≤ s.cs.cache.limit → exec (.jmpRel8 rel) s = .next (s.jump t).finish) ∧
      (s.cs.cache.limit < t → exec (.jmpRel8 rel) s = takeException s .generalProtection (some 0#16))) ∧
    (∀ rel : Word,
      let t := BitVec.ofNat 16 (s.ip1 + rel.toNat)
      (t ≤ s.cs.cache.limit → exec (.jmpRel16 rel) s = .next (s.jump t).finish) ∧
      (s.cs.cache.limit < t → exec (.jmpRel16 rel) s = takeException s .generalProtection (some 0#16))) ∧
    (∀ off seg : Word,
      (s.prot = false → off ≤ s.cs.cache.limit →
        exec (.jmpFar off seg) s =
          .next (State.jump { s with cs := { val := seg, cache := s.cs.cache.atParagraph seg } } off).finish ∧
        SameBytes s (State.jump { s with cs := { val := seg, cache := s.cs.cache.atParagraph seg } } off).finish) ∧
      (s.prot = false → s.cs.cache.limit < off →
        exec (.jmpFar off seg) s = takeException s .generalProtection (some 0#16)) ∧
      (s.prot = true → exec (.jmpFar off seg) s = .refused .protectedFarTransfer))

/-- 45_integer_discrepancies.md R252: the seven one-bit steps, and the group member 6 of the six shift opcodes refused. -/
def Obligations.ShiftSteps : Prop :=
  (∀ (w : Nat) (v : BitVec w) (c : Bool), 0 < w →
    (shiftStep .rol v c).1.toNat = (v.toNat * 2 + v.msb.toNat) % 2 ^ w ∧ (shiftStep .rol v c).2 = v.msb ∧
    (shiftStep .ror v c).1.toNat = v.toNat / 2 + v.toNat % 2 * 2 ^ (w - 1) ∧
    (shiftStep .ror v c).2 = decide (v.toNat % 2 = 1) ∧
    (shiftStep .rcl v c).1.toNat = (v.toNat * 2 + c.toNat) % 2 ^ w ∧ (shiftStep .rcl v c).2 = v.msb ∧
    (shiftStep .rcr v c).1.toNat = v.toNat / 2 + c.toNat * 2 ^ (w - 1) ∧
    (shiftStep .rcr v c).2 = decide (v.toNat % 2 = 1) ∧
    (shiftStep .shl v c).1.toNat = v.toNat * 2 % 2 ^ w ∧ (shiftStep .shl v c).2 = v.msb ∧
    (shiftStep .shr v c).1.toNat = v.toNat / 2 ∧ (shiftStep .shr v c).2 = decide (v.toNat % 2 = 1) ∧
    (shiftStep .sar v c).1.toNat = v.toNat / 2 + v.msb.toNat * 2 ^ (w - 1) ∧
    (shiftStep .sar v c).2 = decide (v.toNat % 2 = 1)) ∧
  ∀ (o : Rm (BitVec 3)) (count : Byte) (t : List Byte), o.wellFormed = true →
    (∀ op ∈ [0xD0#8, 0xD1#8, 0xD2#8, 0xD3#8], decode (op :: (encodeRm 6#3 o ++ t)) = .reject .shiftGroupSix) ∧
    ∀ op ∈ [0xC0#8, 0xC1#8], decode (op :: (encodeRm 6#3 o ++ count :: t)) = .reject .shiftGroupSix

/-- 45_integer_discrepancies.md R253 to R260: the flags after `n` steps, `n` not 0. Of OF for `n` greater than 1 and of AF after
a shift nothing is said: they are undefined. -/
def Obligations.ShiftFlagRules : Prop :=
  ∀ (w : Nat) (v : BitVec w) (op : ShiftOp) (f : Flags) (index n : Nat), w = 8 ∨ w = 16 → n ≠ 0 →
    let r := (shiftTimes op n v f.cf).1
    let g := shiftFlags op f index n v
    g.cf = (shiftTimes op n v f.cf).2 ∧
    (n = 1 → g.ovf =
      match op with
      | .rol => r.msb != g.cf
      | .ror => r.getLsbD (w - 1) != r.getLsbD (w - 2)
      | .rcl => r.msb != g.cf
      | .rcr => r.getLsbD (w - 1) != r.getLsbD (w - 2)
      | .shl => r.msb != g.cf
      | .shr => v.msb
      | .sar => false) ∧
    (op ∈ [.rol, .ror, .rcl, .rcr] → { g with cf := f.cf, ovf := f.ovf } = f) ∧
    (op ∈ [.shl, .shr, .sar] →
      g.sf = r.msb ∧ g.zf = decide (r.toNat = 0) ∧
      g.pf = decide (((List.range 8).filter fun k => r.getLsbD k).length % 2 = 0) ∧
      { g with cf := f.cf, ovf := f.ovf, sf := f.sf, zf := f.zf, pf := f.pf, af := f.af } = f)

/-- 45_integer_discrepancies.md R251, R253: the 42 shifts and rotates, of a register and of memory, by the count masked to 5
bits; with a masked count of 0 only IP changes; an operand that cannot be read ends as the access does, in the state before the
instruction (20_memory.md R88), and one that can be read but not written through SS is refused. -/
def Obligations.Shifts : Prop :=
  ∀ s op form,
    let n := shiftCount (form.count s)
    n = ((form.count s) &&& 0x1F#8).toNat ∧
    (∀ m e, (operandAddress s m 1 .read = .error e → exec (shiftInstr8 op form (.mem m)) s = endWith s e) ∧
      (operandAddress s m 2 .read = .error e → exec (shiftInstr16 op form (.mem m)) s = endWith s e)) ∧
    (∀ m a r,
      (operandAddress s m 1 .read = .ok a → operandAddress s m 1 .write = .error (.refuse r) →
        exec (shiftInstr8 op form (.mem m)) s = .refused r) ∧
      (operandAddress s m 2 .read = .ok a → operandAddress s m 2 .write = .error (.refuse r) →
        exec (shiftInstr16 op form (.mem m)) s = .refused r)) ∧
    (n = 0 →
      (∀ r, exec (shiftInstr8 op form (.reg r)) s = .next s.ended) ∧
      (∀ r, exec (shiftInstr16 op form (.reg r)) s = .next s.ended) ∧
      (∀ m a b, operandAddress s m 1 .read = .ok a → operandAddress s m 1 .write = .ok b →
        exec (shiftInstr8 op form (.mem m)) s = .next s.ended) ∧
      (∀ m a b, operandAddress s m 2 .read = .ok a → operandAddress s m 2 .write = .ok b →
        exec (shiftInstr16 op form (.mem m)) s = .next s.ended) ∧
      SameBytes s s.ended) ∧
    (n ≠ 0 →
      (∀ r, ∃ t, exec (shiftInstr8 op form (.reg r)) s = .next t ∧ SameBytes s t ∧
        t = State.ended { size8.setReg s r (shiftTimes op n (s.regs.get8 r) s.flags.cf).1 with
          flags := shiftFlags op s.flags s.freeIndex n (s.regs.get8 r) }) ∧
      (∀ r, ∃ t, exec (shiftInstr16 op form (.reg r)) s = .next t ∧ SameBytes s t ∧
        t = State.ended { size16.setReg s r (shiftTimes op n (s.regs.get16 r) s.flags.cf).1 with
          flags := shiftFlags op s.flags s.freeIndex n (s.regs.get16 r) }) ∧
      (∀ m a, operandAddress s m 1 .read = .ok a → operandAddress s m 1 .write = .ok a →
        ∃ t, exec (shiftInstr8 op form (.mem m)) s = .next t ∧
          WroteByte s t a (shiftTimes op n (s.byte a) s.flags.cf).1 ∧
          t = State.ended { s.setByte a (shiftTimes op n (s.byte a) s.flags.cf).1 with
            flags := shiftFlags op s.flags s.freeIndex n (s.byte a) }) ∧
      (∀ m a, operandAddress s m 2 .read = .ok a → operandAddress s m 2 .write = .ok a →
        ∃ t, exec (shiftInstr16 op form (.mem m)) s = .next t ∧
          WroteWord s t a (shiftTimes op n (s.word a) s.flags.cf).1 ∧
          t = State.ended { s.setWord a (shiftTimes op n (s.word a) s.flags.cf).1 with
            flags := shiftFlags op s.flags s.freeIndex n (s.word a) }))

/-- 45_integer_discrepancies.md R253, R254, the corner cases: a rotate through carry by one more than the width changes nothing,
a shift by more than the width gives 0 and no carry, an arithmetic shift by the width or more gives copies of the sign, and the
carry of ROL is bit 0 of the result. -/
def Obligations.ShiftCorners : Prop :=
  (∀ (v : Byte) (c : Bool), shiftTimes .rcl 9 v c = (v, c) ∧ shiftTimes .rcr 9 v c = (v, c)) ∧
  (∀ (v : Word) (c : Bool), shiftTimes .rcl 17 v c = (v, c) ∧ shiftTimes .rcr 17 v c = (v, c)) ∧
  (∀ (w : Nat) (v : BitVec w) (c : Bool) (n : Nat), 0 < w →
    (w < n → shiftTimes .shl n v c = (0#w, false) ∧ shiftTimes .shr n v c = (0#w, false)) ∧
    (w ≤ n → shiftTimes .sar n v c = (if v.msb then BitVec.allOnes w else 0#w, v.msb)) ∧
    (0 < n → (shiftTimes .rol n v c).2 = (shiftTimes .rol n v c).1.getLsbD 0))

/-- 45_integer_discrepancies.md R262, R263: DIV and IDIV of a dividend whose quotient is in range: quotient and remainder, and
the six arithmetic flags undefined; a divisor that cannot be read ends as the access does, in the state before the instruction
(20_memory.md R88). -/
def Obligations.Divide : Prop :=
  (∀ (s : State) (m : MemOperand) (e : Stop),
    (operandAddress s m 1 .read = .error e →
      exec (.divRm8 (.mem m)) s = endWith s e ∧ exec (.idivRm8 (.mem m)) s = endWith s e) ∧
    (operandAddress s m 2 .read = .error e →
      exec (.divRm16 (.mem m)) s = endWith s e ∧ exec (.idivRm16 (.mem m)) s = endWith s e)) ∧
  (∀ (s : State) (src : Rm Reg8) (d : Byte), size8.readRm s src = .ok d →
    (d ≠ 0#8 → s.regs.ax.toNat / d.toNat ≤ 0xFF →
      ∃ t, exec (.divRm8 src) s = .next t ∧ SameBytes s t ∧
        t = State.ended { s with
          regs := (s.regs.set8 .al (BitVec.ofNat 8 (s.regs.ax.toNat / d.toNat))).set8 .ah
            (BitVec.ofNat 8 (s.regs.ax.toNat % d.toNat))
          flags := s.flags.undefinedSix s.freeIndex }) ∧
    (d ≠ 0#8 → -128 ≤ s.regs.ax.toInt.tdiv d.toInt → s.regs.ax.toInt.tdiv d.toInt ≤ 127 →
      ∃ t, exec (.idivRm8 src) s = .next t ∧ SameBytes s t ∧
        t = State.ended { s with
          regs := (s.regs.set8 .al (BitVec.ofInt 8 (s.regs.ax.toInt.tdiv d.toInt))).set8 .ah
            (BitVec.ofInt 8 (s.regs.ax.toInt.tmod d.toInt))
          flags := s.flags.undefinedSix s.freeIndex })) ∧
  (∀ (s : State) (src : Rm Reg16) (d : Word), size16.readRm s src = .ok d →
    (d ≠ 0#16 → (s.regs.dx ++ s.regs.ax).toNat / d.toNat ≤ 0xFFFF →
      ∃ t, exec (.divRm16 src) s = .next t ∧ SameBytes s t ∧
        t = State.ended { s with
          regs := { s.regs with
            ax := BitVec.ofNat 16 ((s.regs.dx ++ s.regs.ax).toNat / d.toNat)
            dx := BitVec.ofNat 16 ((s.regs.dx ++ s.regs.ax).toNat % d.toNat) }
          flags := s.flags.undefinedSix s.freeIndex }) ∧
    (d ≠ 0#16 → -32768 ≤ (s.regs.dx ++ s.regs.ax).toInt.tdiv d.toInt →
      (s.regs.dx ++ s.regs.ax).toInt.tdiv d.toInt ≤ 32767 →
      ∃ t, exec (.idivRm16 src) s = .next t ∧ SameBytes s t ∧
        t = State.ended { s with
          regs := { s.regs with
            ax := BitVec.ofInt 16 ((s.regs.dx ++ s.regs.ax).toInt.tdiv d.toInt)
            dx := BitVec.ofInt 16 ((s.regs.dx ++ s.regs.ax).toInt.tmod d.toInt) }
          flags := s.flags.undefinedSix s.freeIndex }))

/-- 45_integer_discrepancies.md R262 to R264: a divisor of 0 or a quotient out of range raises the divide error in the state
before the instruction: every register and flag unchanged, IP at the first prefix. -/
def Obligations.DivideError : Prop :=
  (∀ (s : State) (src : Rm Reg8) (d : Byte), size8.readRm s src = .ok d →
    (d = 0#8 ∨ 0xFF < s.regs.ax.toNat / d.toNat → exec (.divRm8 src) s = takeException s .divideError none) ∧
    (d = 0#8 ∨ s.regs.ax.toInt.tdiv d.toInt < -128 ∨ 127 < s.regs.ax.toInt.tdiv d.toInt →
      exec (.idivRm8 src) s = takeException s .divideError none)) ∧
  (∀ (s : State) (src : Rm Reg16) (d : Word), size16.readRm s src = .ok d →
    (d = 0#16 ∨ 0xFFFF < (s.regs.dx ++ s.regs.ax).toNat / d.toNat →
      exec (.divRm16 src) s = takeException s .divideError none) ∧
    (d = 0#16 ∨ (s.regs.dx ++ s.regs.ax).toInt.tdiv d.toInt < -32768 ∨
        32767 < (s.regs.dx ++ s.regs.ax).toInt.tdiv d.toInt →
      exec (.idivRm16 src) s = takeException s .divideError none)) ∧
  Exc.divideError.vector = 0

/-- 45_integer_discrepancies.md R267: XCHG exchanges two registers, or a register and memory; a memory operand that cannot be
read ends as the access does, in the state before the instruction (20_memory.md R88), and one that can be read but whose write
the spec refuses is refused. What a write-protection fault leaves is stated with ADC and SBB (R266). -/
def Obligations.Exchange : Prop :=
  (∀ (s : State) (m : MemOperand) (r : Reg8) (r' : Reg16) (e : Stop),
    (operandAddress s m 1 .read = .error e → exec (.xchgRm8R8 (.mem m) r) s = endWith s e) ∧
    (operandAddress s m 2 .read = .error e → exec (.xchgRm16R16 (.mem m) r') s = endWith s e)) ∧
  (∀ (s : State) (m : MemOperand) (r : Reg8) (r' : Reg16) (a : Nat) (q : Refusal),
    (operandAddress s m 1 .read = .ok a → operandAddress s m 1 .write = .error (.refuse q) →
      exec (.xchgRm8R8 (.mem m) r) s = .refused q) ∧
    (operandAddress s m 2 .read = .ok a → operandAddress s m 2 .write = .error (.refuse q) →
      exec (.xchgRm16R16 (.mem m) r') s = .refused q)) ∧
  (∀ (s : State) (d r : Reg8), ∃ t, exec (.xchgRm8R8 (.reg d) r) s = .next t ∧ SameBytes s t ∧
    { t with regs := s.regs } = s.ended ∧ t.regs = (s.regs.set8 d (s.regs.get8 r)).set8 r (s.regs.get8 d) ∧
    t.regs.get8 d = s.regs.get8 r ∧ t.regs.get8 r = s.regs.get8 d ∧
    (∀ q ∈ [Reg16.sp, .bp, .si, .di], t.regs.get16 q = s.regs.get16 q) ∧
    ∀ q, q ≠ d → q ≠ r → t.regs.get8 q = s.regs.get8 q) ∧
  (∀ (s : State) (d r : Reg16) (i : Instr), i = .xchgRm16R16 (.reg d) r ∨ (d = .ax ∧ i = .xchgAxR16 r) →
    ∃ t, exec i s = .next t ∧ SameBytes s t ∧ { t with regs := s.regs } = s.ended ∧
      t.regs.get16 d = s.regs.get16 r ∧ t.regs.get16 r = s.regs.get16 d ∧
      ∀ q, q ≠ d → q ≠ r → t.regs.get16 q = s.regs.get16 q) ∧
  (∀ (s : State) (m : MemOperand) (r : Reg8) (a : Nat), operandAddress s m 1 .read = .ok a →
    operandAddress s m 1 .write = .ok a →
    ∃ t, exec (.xchgRm8R8 (.mem m) r) s = .next t ∧ WroteByte s t a (s.regs.get8 r) ∧
      t = (size8.setReg (s.setByte a (s.regs.get8 r)) r (s.byte a)).ended) ∧
  (∀ (s : State) (m : MemOperand) (r : Reg16) (a : Nat), operandAddress s m 2 .read = .ok a →
    operandAddress s m 2 .write = .ok a →
    ∃ t, exec (.xchgRm16R16 (.mem m) r) s = .next t ∧ WroteWord s t a (s.regs.get16 r) ∧
      t = (size16.setReg (s.setWord a (s.regs.get16 r)) r (s.word a)).ended)

/-- 45_integer_discrepancies.md R268, R269: the result and the flags of ADC and SBB. OF is set exactly when the signed result is
out of range, CF when the unsigned one is (10_state.md R35). -/
def Obligations.CarryFlags : Prop :=
  ∀ (w : Nat) (a b : BitVec w) (f : Flags) (op : CarryOp), w = 8 ∨ w = 16 →
    let r := op.result a b f.cf
    let g := op.flags f a b
    let sign : Int := if op = .adc then 1 else -1
    let u : Int := a.toNat + sign * (b.toNat + f.cf.toNat)
    let v : Int := a.toInt + sign * (b.toInt + f.cf.toNat)
    let nibble : Int := (a.toNat % 16 : Nat) + sign * ((b.toNat % 16 : Nat) + f.cf.toNat)
    (r.toNat : Int) = u % 2 ^ w ∧
    g.cf = decide (u < 0 ∨ 2 ^ w ≤ u) ∧ g.af = decide (nibble < 0 ∨ 16 ≤ nibble) ∧
    g.ovf = decide (v < -2 ^ (w - 1) ∨ 2 ^ (w - 1) ≤ v) ∧
    g.sf = r.msb ∧ g.zf = decide (r.toNat = 0) ∧
    g.pf = decide (((List.range 8).filter fun k => r.getLsbD k).length % 2 = 0) ∧
    { g with cf := f.cf, pf := f.pf, af := f.af, zf := f.zf, sf := f.sf, ovf := f.ovf } = f

/-- 45_integer_discrepancies.md R268, R269: the 18 forms of ADC and SBB, with a register and with a memory destination; an
operand that cannot be read ends as the access does, in the state before the instruction (20_memory.md R88), and a destination
whose write the spec refuses is refused. -/
def Obligations.AddSubtractWithCarry : Prop :=
  (∀ (s : State) (op : CarryOp) (form : CarryForm8) (e : Stop),
    (form.source s = .error e → exec (carryInstr8 op form) s = endWith s e) ∧
    (∀ m, form.dst = .mem m → operandAddress s m 1 .read = .error e → exec (carryInstr8 op form) s = endWith s e) ∧
    (∀ m a q, form.dst = .mem m → operandAddress s m 1 .read = .ok a → operandAddress s m 1 .write = .error (.refuse q) →
      exec (carryInstr8 op form) s = .refused q)) ∧
  (∀ (s : State) (op : CarryOp) (form : CarryForm16) (e : Stop),
    (form.source s = .error e → exec (carryInstr16 op form) s = endWith s e) ∧
    (∀ m, form.dst = .mem m → operandAddress s m 2 .read = .error e → exec (carryInstr16 op form) s = endWith s e) ∧
    (∀ m a q, form.dst = .mem m → operandAddress s m 2 .read = .ok a → operandAddress s m 2 .write = .error (.refuse q) →
      exec (carryInstr16 op form) s = .refused q)) ∧
  (∀ (s : State) (op : CarryOp) (form : CarryForm8) (b : Byte), form.source s = .ok b →
    (∀ r, form.dst = .reg r →
      ∃ t, exec (carryInstr8 op form) s = .next t ∧ SameBytes s t ∧
        t = State.ended { size8.setReg s r (op.result (s.regs.get8 r) b s.flags.cf) with
          flags := op.flags s.flags (s.regs.get8 r) b }) ∧
    (∀ m a, form.dst = .mem m → operandAddress s m 1 .read = .ok a → operandAddress s m 1 .write = .ok a →
      ∃ t, exec (carryInstr8 op form) s = .next t ∧ WroteByte s t a (op.result (s.byte a) b s.flags.cf) ∧
        t = State.ended { s.setByte a (op.result (s.byte a) b s.flags.cf) with
          flags := op.flags s.flags (s.byte a) b })) ∧
  (∀ (s : State) (op : CarryOp) (form : CarryForm16) (b : Word), form.source s = .ok b →
    (∀ r, form.dst = .reg r →
      ∃ t, exec (carryInstr16 op form) s = .next t ∧ SameBytes s t ∧
        t = State.ended { size16.setReg s r (op.result (s.regs.get16 r) b s.flags.cf) with
          flags := op.flags s.flags (s.regs.get16 r) b }) ∧
    (∀ m a, form.dst = .mem m → operandAddress s m 2 .read = .ok a → operandAddress s m 2 .write = .ok a →
      ∃ t, exec (carryInstr16 op form) s = .next t ∧ WroteWord s t a (op.result (s.word a) b s.flags.cf) ∧
        t = State.ended { s.setWord a (op.result (s.word a) b s.flags.cf) with
          flags := op.flags s.flags (s.word a) b }))

/-- 45_integer_discrepancies.md R253 to R255, R258 to R260, R266, 20_memory.md R89: XCHG, ADC, SBB, RCL and RCR of a memory
operand that can be read in a segment other than SS but not written raise exception 13 with error code 0, memory unchanged, and
the register operand or the flags they write undefined; the other shifts leave the state before the instruction, and a shift by
a masked count of 0 is refused. -/
def Obligations.WriteProtectedOperand : Prop :=
  ∀ s m n a, n = 1 ∨ n = 2 → operandAddress s m n .read = .ok a → s.operandSegment m ≠ .ss →
    (s.seg (s.operandSegment m)).cache.code = true ∨ (s.seg (s.operandSegment m)).cache.writable = false →
    (∀ i t, undefinedAfterWriteFault s m n i t →
      exec i s = takeException t .generalProtection (some 0#16) ∧ t.mem = s.mem ∧ SameBytes s t) ∧
    (∀ op form, op.throughCarry = false → shiftCount (form.count s) ≠ 0 →
      (n = 1 → exec (shiftInstr8 op form (.mem m)) s = takeException s .generalProtection (some 0#16)) ∧
      (n = 2 → exec (shiftInstr16 op form (.mem m)) s = takeException s .generalProtection (some 0#16))) ∧
    (∀ op form, shiftCount (form.count s) = 0 →
      (n = 1 → exec (shiftInstr8 op form (.mem m)) s = .refused .zeroCountWriteProtected) ∧
      (n = 2 → exec (shiftInstr16 op form (.mem m)) s = .refused .zeroCountWriteProtected))

/-! ### Events at an instruction boundary, and the whole machine -/

/-- 60_exceptions.md R290, R305, 40_segment_register_access.md R140, 44_numeric_coprocessor.md R229: an external interrupt
offered while IF = 0 or right after a load of SS changes nothing of the step; one accepted enters its handler with IP, the next
instruction, as the return address: in real mode through the table, in protected mode through its gate, whatever the dpl of the
gate, at the same level or at a more privileged one; in protected mode one whose vector has no gate raises exception 13 with EXT
set in its error code (R302, R304; DEDUCED, log entry 19), and an entry that R305, R306 or R308 refuses is refused by name; a
pending exception 9 is delivered at a boundary. -/
def Obligations.BoundaryEvents : Prop :=
  ∀ s, s.prefixLen = 0 → s.flags.tf = false → (s.prot = true → s.cs.cache.dpl = s.ss.cache.dpl) →
    (∀ n rest, s.inputs = .interrupt n :: rest → s.flags.ie = false ∨ s.intShadow = true →
      step s = step { s with inputs := .quiet :: rest }) ∧
    (∀ n rest, s.inputs = .interrupt n :: rest → s.flags.ie = true → s.intShadow = false →
      let u := s.fetching
      let saved := [s.flags.toWord, s.cs.val, s.ip]
      (s.prot = false → s.idtr.limit.toNat < 4 * n.toNat + 3 → step s = .refused .vectorOutsideTable) ∧
      (let a := s.idtr.base.toNat + 8 * n.toNat
       let trap := takeException u .generalProtection (some (vectorCode s.platform.format n.toNat true))
       (s.prot = true → s.idtr.limit.toNat < 8 * n.toNat + 7 → step s = trap) ∧
       (s.prot = true → 8 * n.toNat + 7 ≤ s.idtr.limit.toNat → a + 8 ≤ physicalSize →
         (u.gateAt .interruptVector a).type = none → step s = trap) ∧
       (s.platform.format = DescFormat.default →
         vectorCode s.platform.format n.toNat true = BitVec.ofNat 16 (8 * n.toNat + 3))) ∧
      (∀ g e r, s.prot = true → readGate u .interruptVector n.toNat e = .ok g → EntryRefused u g saved r →
        step s = .refused r) ∧
      (∀ l sp, s.prot = false → 4 * n.toNat + 3 ≤ s.idtr.limit.toNat →
        s.idtr.base.toNat + 4 * n.toNat + 4 ≤ physicalSize → Frame s s.regs.sp saved l sp →
        let off := u.wordFor .interruptVector (s.idtr.base.toNat + 4 * n.toNat)
        let para := u.wordFor .interruptVector (s.idtr.base.toNat + 4 * n.toNat + 2)
        ∃ t, step s = .next t ∧ t.regs = { s.regs with sp := sp } ∧ t.flags = { s.flags with ie := false } ∧ t.ip = off ∧
          t.cs = { val := para, cache := s.cs.cache.atParagraph para } ∧
          t.ss = s.ss ∧ t.ds = s.ds ∧ t.es = s.es ∧ t.numeric = s.numeric ∧ t.inputs = rest ∧ WroteWords u t l []) ∧
      (∀ g e d l sp, s.prot = true → readGate u .interruptVector n.toNat e = .ok g → SameLevelGate u g d →
        Frame u u.regs.sp saved l sp →
        ∃ t, step s = .next t ∧ t.ss = s.ss ∧ Entered u t g d s.cpl sp ∧ t.inputs = rest ∧ WroteWords u t l [d.rightsAt]) ∧
      (∀ g e d d2 l sp, s.prot = true → readGate u .interruptVector n.toNat e = .ok g → InnerLevelGate u g d d2 →
        Frame (u.onInnerStack d.dpl d2) (u.wordFor .innerPointer (u.innerSpAt d.dpl)) ([s.ss.val, s.regs.sp] ++ saved) l sp →
        ∃ t, step s = .next t ∧ t.ss = (u.onInnerStack d.dpl d2).ss ∧ Entered u t g d d.dpl sp ∧ t.inputs = rest ∧
          WroteWords u t l [d2.rightsAt, d.rightsAt])) ∧
    (s.exc9Pending = true → s.inputs = [] ∨ s.inputs.head? = some .exception9 →
      step s = takeException { s.fetching with exc9Pending := false } .segmentOverrun none)

/-- 70_reset_and_hazards.md R330 to R332, 44_numeric_coprocessor.md R234: RESET of the 80286 forces real mode and the values of
RESET from any state and keeps memory and the 80287; RESET of the 80287 sets its mode and state and keeps everything else. -/
def Obligations.ResetEvents : Prop :=
  ∀ s rest, s.prefixLen = 0 →
    (s.inputs = .reset :: rest → ∃ t, step s = .next t ∧ t.prot = false ∧ t.flags = Flags.reset ∧ t.msw = 0xFFF0#16 ∧
      t.ip = 0xFFF0#16 ∧ t.cs = State.reset.cs ∧ t.ss = State.reset.ss ∧ t.ds = State.reset.ds ∧ t.es = State.reset.es ∧
      t.idtr = State.reset.idtr ∧ t.superseded = [] ∧ t.mem = s.mem ∧ t.numeric = s.numeric ∧ t.inputs = rest ∧
      t.ioLog = s.ioLog ∧ t.platform = s.platform) ∧
    (s.inputs = .resetNumeric :: rest → ∃ t, step s = .next t ∧ { t with numeric := s.numeric } = s.fetching ∧
      t.numeric.mode = .real ∧ t.numeric.busy = .idle ∧ (∀ k : Fin 8, t.numeric.tags[k] = true) ∧ t.numeric.top = 0#3 ∧
      t.numeric.masks = 0x3F#6 ∧ t.numeric.errorPending = false)

/-- 10_state.md R40, R46 to R48, R50, 70_reset_and_hazards.md R330, R334: over every step: only LOADALL and RESET write the MSW,
GDTR, IDTR, LDTR and TR; only RESET leaves protected mode; the mode of the 80287 changes only by FSETPM, to protected, and by
its RESET, to real; the open parameters never change. -/
def Obligations.SystemRegistersKept : Prop :=
  ∀ s t, step s = .next t →
    let isReset := s.prefixLen = 0 ∧ s.inputs.head? = some .reset
    (¬isReset → ¬Runs s .loadall →
      t.msw = s.msw ∧ t.gdtr = s.gdtr ∧ t.idtr = s.idtr ∧ t.ldtr = s.ldtr ∧ t.tr = s.tr) ∧
    (¬isReset → s.prot = true → t.prot = true) ∧
    (t.numeric.mode ≠ s.numeric.mode →
      (t.numeric.mode = .prot ∧ Runs s .fsetpm) ∨
      (t.numeric.mode = .real ∧ s.prefixLen = 0 ∧ s.inputs.head? = some .resetNumeric)) ∧
    t.platform = s.platform

/-- 10_state.md R37, 42_interrupt_and_flag_instructions.md R189, 43_io_and_lock.md R210: over every step but RESET: at a level
other than 0 IOPL does not change, and at a level above IOPL interrupts are never enabled. -/
def Obligations.PrivilegedFlagsKept : Prop :=
  ∀ s t, step s = .next t → ¬(s.prefixLen = 0 ∧ s.inputs.head? = some .reset) → s.cpl ≠ 0#2 →
    t.flags.iopl = s.flags.iopl ∧ (s.flags.iopl < s.cpl → t.flags.ie = true → s.flags.ie = true)

end
end

