-- ==== Sys2Proof/Laws/State.lean ====
section
/-! SUPPORT. One lemma for each field under each update of State, so that no later proof unfolds a record update. -/

namespace Sys2Proof.Machine

@[simp] theorem State.advance_regs (s : State) : (s.advance).regs = s.regs := rfl
@[simp] theorem State.advance_ip (s : State) : (s.advance).ip = BitVec.ofNat 16 s.ip1 := rfl
@[simp] theorem State.advance_flags (s : State) : (s.advance).flags = s.flags := rfl
@[simp] theorem State.advance_msw (s : State) : (s.advance).msw = s.msw := rfl
@[simp] theorem State.advance_es (s : State) : (s.advance).es = s.es := rfl
@[simp] theorem State.advance_cs (s : State) : (s.advance).cs = s.cs := rfl
@[simp] theorem State.advance_ss (s : State) : (s.advance).ss = s.ss := rfl
@[simp] theorem State.advance_ds (s : State) : (s.advance).ds = s.ds := rfl
@[simp] theorem State.advance_gdtr (s : State) : (s.advance).gdtr = s.gdtr := rfl
@[simp] theorem State.advance_idtr (s : State) : (s.advance).idtr = s.idtr := rfl
@[simp] theorem State.advance_ldtr (s : State) : (s.advance).ldtr = s.ldtr := rfl
@[simp] theorem State.advance_tr (s : State) : (s.advance).tr = s.tr := rfl
@[simp] theorem State.advance_numeric (s : State) : (s.advance).numeric = s.numeric := rfl
@[simp] theorem State.advance_mem (s : State) : (s.advance).mem = s.mem := rfl
@[simp] theorem State.advance_superseded (s : State) : (s.advance).superseded = s.superseded := rfl
@[simp] theorem State.advance_exc9Pending (s : State) : (s.advance).exc9Pending = s.exc9Pending := rfl
@[simp] theorem State.advance_intShadow (s : State) : (s.advance).intShadow = s.intShadow := rfl
@[simp] theorem State.advance_ioLog (s : State) : (s.advance).ioLog = s.ioLog := rfl
@[simp] theorem State.advance_inputs (s : State) : (s.advance).inputs = s.inputs := rfl
@[simp] theorem State.advance_platform (s : State) : (s.advance).platform = s.platform := rfl
@[simp] theorem State.advance_ip1 (s : State) : (s.advance).ip1 = s.ip1 := rfl
@[simp] theorem State.advance_ipPastEnd (s : State) : (s.advance).ipPastEnd = decide (0x10000 ≤ s.ip1) := rfl
@[simp] theorem State.advance_prefixLen (s : State) : (s.advance).prefixLen = s.prefixLen := rfl
@[simp] theorem State.advance_override (s : State) : (s.advance).override = s.override := rfl
@[simp] theorem State.advance_lock (s : State) : (s.advance).lock = s.lock := rfl
@[simp] theorem State.advance_freeIndex (s : State) : (s.advance).freeIndex = s.freeIndex := rfl

@[simp] theorem State.jump_regs (s : State) (t : Word) : (s.jump t).regs = s.regs := rfl
@[simp] theorem State.jump_ip (s : State) (t : Word) : (s.jump t).ip = t := rfl
@[simp] theorem State.jump_flags (s : State) (t : Word) : (s.jump t).flags = s.flags := rfl
@[simp] theorem State.jump_msw (s : State) (t : Word) : (s.jump t).msw = s.msw := rfl
@[simp] theorem State.jump_es (s : State) (t : Word) : (s.jump t).es = s.es := rfl
@[simp] theorem State.jump_cs (s : State) (t : Word) : (s.jump t).cs = s.cs := rfl
@[simp] theorem State.jump_ss (s : State) (t : Word) : (s.jump t).ss = s.ss := rfl
@[simp] theorem State.jump_ds (s : State) (t : Word) : (s.jump t).ds = s.ds := rfl
@[simp] theorem State.jump_gdtr (s : State) (t : Word) : (s.jump t).gdtr = s.gdtr := rfl
@[simp] theorem State.jump_idtr (s : State) (t : Word) : (s.jump t).idtr = s.idtr := rfl
@[simp] theorem State.jump_ldtr (s : State) (t : Word) : (s.jump t).ldtr = s.ldtr := rfl
@[simp] theorem State.jump_tr (s : State) (t : Word) : (s.jump t).tr = s.tr := rfl
@[simp] theorem State.jump_numeric (s : State) (t : Word) : (s.jump t).numeric = s.numeric := rfl
@[simp] theorem State.jump_mem (s : State) (t : Word) : (s.jump t).mem = s.mem := rfl
@[simp] theorem State.jump_superseded (s : State) (t : Word) : (s.jump t).superseded = [] := rfl
@[simp] theorem State.jump_exc9Pending (s : State) (t : Word) : (s.jump t).exc9Pending = s.exc9Pending := rfl
@[simp] theorem State.jump_intShadow (s : State) (t : Word) : (s.jump t).intShadow = s.intShadow := rfl
@[simp] theorem State.jump_ioLog (s : State) (t : Word) : (s.jump t).ioLog = s.ioLog := rfl
@[simp] theorem State.jump_inputs (s : State) (t : Word) : (s.jump t).inputs = s.inputs := rfl
@[simp] theorem State.jump_platform (s : State) (t : Word) : (s.jump t).platform = s.platform := rfl
@[simp] theorem State.jump_ip1 (s : State) (t : Word) : (s.jump t).ip1 = s.ip1 := rfl
@[simp] theorem State.jump_ipPastEnd (s : State) (t : Word) : (s.jump t).ipPastEnd = false := rfl
@[simp] theorem State.jump_prefixLen (s : State) (t : Word) : (s.jump t).prefixLen = s.prefixLen := rfl
@[simp] theorem State.jump_override (s : State) (t : Word) : (s.jump t).override = s.override := rfl
@[simp] theorem State.jump_lock (s : State) (t : Word) : (s.jump t).lock = s.lock := rfl
@[simp] theorem State.jump_freeIndex (s : State) (t : Word) : (s.jump t).freeIndex = s.freeIndex := rfl

@[simp] theorem State.finish_regs (s : State) : (s.finish).regs = s.regs := rfl
@[simp] theorem State.finish_ip (s : State) : (s.finish).ip = s.ip := rfl
@[simp] theorem State.finish_flags (s : State) : (s.finish).flags = s.flags := rfl
@[simp] theorem State.finish_msw (s : State) : (s.finish).msw = s.msw := rfl
@[simp] theorem State.finish_es (s : State) : (s.finish).es = s.es := rfl
@[simp] theorem State.finish_cs (s : State) : (s.finish).cs = s.cs := rfl
@[simp] theorem State.finish_ss (s : State) : (s.finish).ss = s.ss := rfl
@[simp] theorem State.finish_ds (s : State) : (s.finish).ds = s.ds := rfl
@[simp] theorem State.finish_gdtr (s : State) : (s.finish).gdtr = s.gdtr := rfl
@[simp] theorem State.finish_idtr (s : State) : (s.finish).idtr = s.idtr := rfl
@[simp] theorem State.finish_ldtr (s : State) : (s.finish).ldtr = s.ldtr := rfl
@[simp] theorem State.finish_tr (s : State) : (s.finish).tr = s.tr := rfl
@[simp] theorem State.finish_numeric (s : State) : (s.finish).numeric = s.numeric := rfl
@[simp] theorem State.finish_mem (s : State) : (s.finish).mem = s.mem := rfl
@[simp] theorem State.finish_superseded (s : State) : (s.finish).superseded = s.superseded := rfl
@[simp] theorem State.finish_exc9Pending (s : State) : (s.finish).exc9Pending = s.exc9Pending := rfl
@[simp] theorem State.finish_intShadow (s : State) : (s.finish).intShadow = s.intShadow := rfl
@[simp] theorem State.finish_ioLog (s : State) : (s.finish).ioLog = s.ioLog := rfl
@[simp] theorem State.finish_inputs (s : State) : (s.finish).inputs = s.inputs := rfl
@[simp] theorem State.finish_platform (s : State) : (s.finish).platform = s.platform := rfl
@[simp] theorem State.finish_ip1 (s : State) : (s.finish).ip1 = s.ip1 := rfl
@[simp] theorem State.finish_ipPastEnd (s : State) : (s.finish).ipPastEnd = s.ipPastEnd := rfl
@[simp] theorem State.finish_prefixLen (s : State) : (s.finish).prefixLen = 0 := rfl
@[simp] theorem State.finish_override (s : State) : (s.finish).override = none := rfl
@[simp] theorem State.finish_lock (s : State) : (s.finish).lock = false := rfl
@[simp] theorem State.finish_freeIndex (s : State) : (s.finish).freeIndex = s.freeIndex := rfl

@[simp] theorem State.setSp_regs (s : State) (v : Word) : (s.setSp v).regs = { s.regs with sp := v } := rfl
@[simp] theorem State.setSp_ip (s : State) (v : Word) : (s.setSp v).ip = s.ip := rfl
@[simp] theorem State.setSp_flags (s : State) (v : Word) : (s.setSp v).flags = s.flags := rfl
@[simp] theorem State.setSp_msw (s : State) (v : Word) : (s.setSp v).msw = s.msw := rfl
@[simp] theorem State.setSp_es (s : State) (v : Word) : (s.setSp v).es = s.es := rfl
@[simp] theorem State.setSp_cs (s : State) (v : Word) : (s.setSp v).cs = s.cs := rfl
@[simp] theorem State.setSp_ss (s : State) (v : Word) : (s.setSp v).ss = s.ss := rfl
@[simp] theorem State.setSp_ds (s : State) (v : Word) : (s.setSp v).ds = s.ds := rfl
@[simp] theorem State.setSp_gdtr (s : State) (v : Word) : (s.setSp v).gdtr = s.gdtr := rfl
@[simp] theorem State.setSp_idtr (s : State) (v : Word) : (s.setSp v).idtr = s.idtr := rfl
@[simp] theorem State.setSp_ldtr (s : State) (v : Word) : (s.setSp v).ldtr = s.ldtr := rfl
@[simp] theorem State.setSp_tr (s : State) (v : Word) : (s.setSp v).tr = s.tr := rfl
@[simp] theorem State.setSp_numeric (s : State) (v : Word) : (s.setSp v).numeric = s.numeric := rfl
@[simp] theorem State.setSp_mem (s : State) (v : Word) : (s.setSp v).mem = s.mem := rfl
@[simp] theorem State.setSp_superseded (s : State) (v : Word) : (s.setSp v).superseded = s.superseded := rfl
@[simp] theorem State.setSp_exc9Pending (s : State) (v : Word) : (s.setSp v).exc9Pending = s.exc9Pending := rfl
@[simp] theorem State.setSp_intShadow (s : State) (v : Word) : (s.setSp v).intShadow = s.intShadow := rfl
@[simp] theorem State.setSp_ioLog (s : State) (v : Word) : (s.setSp v).ioLog = s.ioLog := rfl
@[simp] theorem State.setSp_inputs (s : State) (v : Word) : (s.setSp v).inputs = s.inputs := rfl
@[simp] theorem State.setSp_platform (s : State) (v : Word) : (s.setSp v).platform = s.platform := rfl
@[simp] theorem State.setSp_ip1 (s : State) (v : Word) : (s.setSp v).ip1 = s.ip1 := rfl
@[simp] theorem State.setSp_ipPastEnd (s : State) (v : Word) : (s.setSp v).ipPastEnd = s.ipPastEnd := rfl
@[simp] theorem State.setSp_prefixLen (s : State) (v : Word) : (s.setSp v).prefixLen = s.prefixLen := rfl
@[simp] theorem State.setSp_override (s : State) (v : Word) : (s.setSp v).override = s.override := rfl
@[simp] theorem State.setSp_lock (s : State) (v : Word) : (s.setSp v).lock = s.lock := rfl
@[simp] theorem State.setSp_freeIndex (s : State) (v : Word) : (s.setSp v).freeIndex = s.freeIndex := rfl

@[simp] theorem State.loadFlags_regs (s : State) (l : BitVec 2) (v : Word) : (s.loadFlags l v).regs = s.regs := rfl
@[simp] theorem State.loadFlags_ip (s : State) (l : BitVec 2) (v : Word) : (s.loadFlags l v).ip = s.ip := rfl
@[simp] theorem State.loadFlags_flags (s : State) (l : BitVec 2) (v : Word) : (s.loadFlags l v).flags = s.flags.load s.prot l s.platform.realModeHighFlags v := rfl
@[simp] theorem State.loadFlags_msw (s : State) (l : BitVec 2) (v : Word) : (s.loadFlags l v).msw = s.msw := rfl
@[simp] theorem State.loadFlags_es (s : State) (l : BitVec 2) (v : Word) : (s.loadFlags l v).es = s.es := rfl
@[simp] theorem State.loadFlags_cs (s : State) (l : BitVec 2) (v : Word) : (s.loadFlags l v).cs = s.cs := rfl
@[simp] theorem State.loadFlags_ss (s : State) (l : BitVec 2) (v : Word) : (s.loadFlags l v).ss = s.ss := rfl
@[simp] theorem State.loadFlags_ds (s : State) (l : BitVec 2) (v : Word) : (s.loadFlags l v).ds = s.ds := rfl
@[simp] theorem State.loadFlags_gdtr (s : State) (l : BitVec 2) (v : Word) : (s.loadFlags l v).gdtr = s.gdtr := rfl
@[simp] theorem State.loadFlags_idtr (s : State) (l : BitVec 2) (v : Word) : (s.loadFlags l v).idtr = s.idtr := rfl
@[simp] theorem State.loadFlags_ldtr (s : State) (l : BitVec 2) (v : Word) : (s.loadFlags l v).ldtr = s.ldtr := rfl
@[simp] theorem State.loadFlags_tr (s : State) (l : BitVec 2) (v : Word) : (s.loadFlags l v).tr = s.tr := rfl
@[simp] theorem State.loadFlags_numeric (s : State) (l : BitVec 2) (v : Word) : (s.loadFlags l v).numeric = s.numeric := rfl
@[simp] theorem State.loadFlags_mem (s : State) (l : BitVec 2) (v : Word) : (s.loadFlags l v).mem = s.mem := rfl
@[simp] theorem State.loadFlags_superseded (s : State) (l : BitVec 2) (v : Word) : (s.loadFlags l v).superseded = s.superseded := rfl
@[simp] theorem State.loadFlags_exc9Pending (s : State) (l : BitVec 2) (v : Word) : (s.loadFlags l v).exc9Pending = s.exc9Pending := rfl
@[simp] theorem State.loadFlags_intShadow (s : State) (l : BitVec 2) (v : Word) : (s.loadFlags l v).intShadow = s.intShadow := rfl
@[simp] theorem State.loadFlags_ioLog (s : State) (l : BitVec 2) (v : Word) : (s.loadFlags l v).ioLog = s.ioLog := rfl
@[simp] theorem State.loadFlags_inputs (s : State) (l : BitVec 2) (v : Word) : (s.loadFlags l v).inputs = s.inputs := rfl
@[simp] theorem State.loadFlags_platform (s : State) (l : BitVec 2) (v : Word) : (s.loadFlags l v).platform = s.platform := rfl
@[simp] theorem State.loadFlags_ip1 (s : State) (l : BitVec 2) (v : Word) : (s.loadFlags l v).ip1 = s.ip1 := rfl
@[simp] theorem State.loadFlags_ipPastEnd (s : State) (l : BitVec 2) (v : Word) : (s.loadFlags l v).ipPastEnd = s.ipPastEnd := rfl
@[simp] theorem State.loadFlags_prefixLen (s : State) (l : BitVec 2) (v : Word) : (s.loadFlags l v).prefixLen = s.prefixLen := rfl
@[simp] theorem State.loadFlags_override (s : State) (l : BitVec 2) (v : Word) : (s.loadFlags l v).override = s.override := rfl
@[simp] theorem State.loadFlags_lock (s : State) (l : BitVec 2) (v : Word) : (s.loadFlags l v).lock = s.lock := rfl
@[simp] theorem State.loadFlags_freeIndex (s : State) (l : BitVec 2) (v : Word) : (s.loadFlags l v).freeIndex = s.freeIndex := rfl

@[simp] theorem State.setIe_regs (s : State) (b : Bool) : (s.setIe b).regs = s.regs := rfl
@[simp] theorem State.setIe_ip (s : State) (b : Bool) : (s.setIe b).ip = s.ip := rfl
@[simp] theorem State.setIe_flags (s : State) (b : Bool) : (s.setIe b).flags = { s.flags with ie := b } := rfl
@[simp] theorem State.setIe_msw (s : State) (b : Bool) : (s.setIe b).msw = s.msw := rfl
@[simp] theorem State.setIe_es (s : State) (b : Bool) : (s.setIe b).es = s.es := rfl
@[simp] theorem State.setIe_cs (s : State) (b : Bool) : (s.setIe b).cs = s.cs := rfl
@[simp] theorem State.setIe_ss (s : State) (b : Bool) : (s.setIe b).ss = s.ss := rfl
@[simp] theorem State.setIe_ds (s : State) (b : Bool) : (s.setIe b).ds = s.ds := rfl
@[simp] theorem State.setIe_gdtr (s : State) (b : Bool) : (s.setIe b).gdtr = s.gdtr := rfl
@[simp] theorem State.setIe_idtr (s : State) (b : Bool) : (s.setIe b).idtr = s.idtr := rfl
@[simp] theorem State.setIe_ldtr (s : State) (b : Bool) : (s.setIe b).ldtr = s.ldtr := rfl
@[simp] theorem State.setIe_tr (s : State) (b : Bool) : (s.setIe b).tr = s.tr := rfl
@[simp] theorem State.setIe_numeric (s : State) (b : Bool) : (s.setIe b).numeric = s.numeric := rfl
@[simp] theorem State.setIe_mem (s : State) (b : Bool) : (s.setIe b).mem = s.mem := rfl
@[simp] theorem State.setIe_superseded (s : State) (b : Bool) : (s.setIe b).superseded = s.superseded := rfl
@[simp] theorem State.setIe_exc9Pending (s : State) (b : Bool) : (s.setIe b).exc9Pending = s.exc9Pending := rfl
@[simp] theorem State.setIe_intShadow (s : State) (b : Bool) : (s.setIe b).intShadow = s.intShadow := rfl
@[simp] theorem State.setIe_ioLog (s : State) (b : Bool) : (s.setIe b).ioLog = s.ioLog := rfl
@[simp] theorem State.setIe_inputs (s : State) (b : Bool) : (s.setIe b).inputs = s.inputs := rfl
@[simp] theorem State.setIe_platform (s : State) (b : Bool) : (s.setIe b).platform = s.platform := rfl
@[simp] theorem State.setIe_ip1 (s : State) (b : Bool) : (s.setIe b).ip1 = s.ip1 := rfl
@[simp] theorem State.setIe_ipPastEnd (s : State) (b : Bool) : (s.setIe b).ipPastEnd = s.ipPastEnd := rfl
@[simp] theorem State.setIe_prefixLen (s : State) (b : Bool) : (s.setIe b).prefixLen = s.prefixLen := rfl
@[simp] theorem State.setIe_override (s : State) (b : Bool) : (s.setIe b).override = s.override := rfl
@[simp] theorem State.setIe_lock (s : State) (b : Bool) : (s.setIe b).lock = s.lock := rfl
@[simp] theorem State.setIe_freeIndex (s : State) (b : Bool) : (s.setIe b).freeIndex = s.freeIndex := rfl

@[simp] theorem State.tick_regs (s : State) : (s.tick).regs = s.regs := rfl
@[simp] theorem State.tick_ip (s : State) : (s.tick).ip = s.ip := rfl
@[simp] theorem State.tick_flags (s : State) : (s.tick).flags = s.flags := rfl
@[simp] theorem State.tick_msw (s : State) : (s.tick).msw = s.msw := rfl
@[simp] theorem State.tick_es (s : State) : (s.tick).es = s.es := rfl
@[simp] theorem State.tick_cs (s : State) : (s.tick).cs = s.cs := rfl
@[simp] theorem State.tick_ss (s : State) : (s.tick).ss = s.ss := rfl
@[simp] theorem State.tick_ds (s : State) : (s.tick).ds = s.ds := rfl
@[simp] theorem State.tick_gdtr (s : State) : (s.tick).gdtr = s.gdtr := rfl
@[simp] theorem State.tick_idtr (s : State) : (s.tick).idtr = s.idtr := rfl
@[simp] theorem State.tick_ldtr (s : State) : (s.tick).ldtr = s.ldtr := rfl
@[simp] theorem State.tick_tr (s : State) : (s.tick).tr = s.tr := rfl
@[simp] theorem State.tick_numeric (s : State) : (s.tick).numeric = s.numeric := rfl
@[simp] theorem State.tick_mem (s : State) : (s.tick).mem = s.mem := rfl
@[simp] theorem State.tick_superseded (s : State) : (s.tick).superseded = s.superseded := rfl
@[simp] theorem State.tick_exc9Pending (s : State) : (s.tick).exc9Pending = s.exc9Pending := rfl
@[simp] theorem State.tick_intShadow (s : State) : (s.tick).intShadow = s.intShadow := rfl
@[simp] theorem State.tick_ioLog (s : State) : (s.tick).ioLog = s.ioLog := rfl
@[simp] theorem State.tick_inputs (s : State) : (s.tick).inputs = s.inputs := rfl
@[simp] theorem State.tick_platform (s : State) : (s.tick).platform = s.platform := rfl
@[simp] theorem State.tick_ip1 (s : State) : (s.tick).ip1 = s.ip1 := rfl
@[simp] theorem State.tick_ipPastEnd (s : State) : (s.tick).ipPastEnd = s.ipPastEnd := rfl
@[simp] theorem State.tick_prefixLen (s : State) : (s.tick).prefixLen = s.prefixLen := rfl
@[simp] theorem State.tick_override (s : State) : (s.tick).override = s.override := rfl
@[simp] theorem State.tick_lock (s : State) : (s.tick).lock = s.lock := rfl
@[simp] theorem State.tick_freeIndex (s : State) : (s.tick).freeIndex = s.freeIndex + 1 := rfl

@[simp] theorem State.logPort_regs (s : State) (p : PortAccess) : (s.logPort p).regs = s.regs := rfl
@[simp] theorem State.logPort_ip (s : State) (p : PortAccess) : (s.logPort p).ip = s.ip := rfl
@[simp] theorem State.logPort_flags (s : State) (p : PortAccess) : (s.logPort p).flags = s.flags := rfl
@[simp] theorem State.logPort_msw (s : State) (p : PortAccess) : (s.logPort p).msw = s.msw := rfl
@[simp] theorem State.logPort_es (s : State) (p : PortAccess) : (s.logPort p).es = s.es := rfl
@[simp] theorem State.logPort_cs (s : State) (p : PortAccess) : (s.logPort p).cs = s.cs := rfl
@[simp] theorem State.logPort_ss (s : State) (p : PortAccess) : (s.logPort p).ss = s.ss := rfl
@[simp] theorem State.logPort_ds (s : State) (p : PortAccess) : (s.logPort p).ds = s.ds := rfl
@[simp] theorem State.logPort_gdtr (s : State) (p : PortAccess) : (s.logPort p).gdtr = s.gdtr := rfl
@[simp] theorem State.logPort_idtr (s : State) (p : PortAccess) : (s.logPort p).idtr = s.idtr := rfl
@[simp] theorem State.logPort_ldtr (s : State) (p : PortAccess) : (s.logPort p).ldtr = s.ldtr := rfl
@[simp] theorem State.logPort_tr (s : State) (p : PortAccess) : (s.logPort p).tr = s.tr := rfl
@[simp] theorem State.logPort_numeric (s : State) (p : PortAccess) : (s.logPort p).numeric = s.numeric := rfl
@[simp] theorem State.logPort_mem (s : State) (p : PortAccess) : (s.logPort p).mem = s.mem := rfl
@[simp] theorem State.logPort_superseded (s : State) (p : PortAccess) : (s.logPort p).superseded = s.superseded := rfl
@[simp] theorem State.logPort_exc9Pending (s : State) (p : PortAccess) : (s.logPort p).exc9Pending = s.exc9Pending := rfl
@[simp] theorem State.logPort_intShadow (s : State) (p : PortAccess) : (s.logPort p).intShadow = s.intShadow := rfl
@[simp] theorem State.logPort_ioLog (s : State) (p : PortAccess) : (s.logPort p).ioLog = s.ioLog ++ [p] := rfl
@[simp] theorem State.logPort_inputs (s : State) (p : PortAccess) : (s.logPort p).inputs = s.inputs := rfl
@[simp] theorem State.logPort_platform (s : State) (p : PortAccess) : (s.logPort p).platform = s.platform := rfl
@[simp] theorem State.logPort_ip1 (s : State) (p : PortAccess) : (s.logPort p).ip1 = s.ip1 := rfl
@[simp] theorem State.logPort_ipPastEnd (s : State) (p : PortAccess) : (s.logPort p).ipPastEnd = s.ipPastEnd := rfl
@[simp] theorem State.logPort_prefixLen (s : State) (p : PortAccess) : (s.logPort p).prefixLen = s.prefixLen := rfl
@[simp] theorem State.logPort_override (s : State) (p : PortAccess) : (s.logPort p).override = s.override := rfl
@[simp] theorem State.logPort_lock (s : State) (p : PortAccess) : (s.logPort p).lock = s.lock := rfl
@[simp] theorem State.logPort_freeIndex (s : State) (p : PortAccess) : (s.logPort p).freeIndex = s.freeIndex := rfl

@[simp] theorem State.holdOff_regs (s : State) (r : SegReg) : (s.holdOff r).regs = s.regs := rfl
@[simp] theorem State.holdOff_ip (s : State) (r : SegReg) : (s.holdOff r).ip = s.ip := rfl
@[simp] theorem State.holdOff_flags (s : State) (r : SegReg) : (s.holdOff r).flags = s.flags := rfl
@[simp] theorem State.holdOff_msw (s : State) (r : SegReg) : (s.holdOff r).msw = s.msw := rfl
@[simp] theorem State.holdOff_es (s : State) (r : SegReg) : (s.holdOff r).es = s.es := rfl
@[simp] theorem State.holdOff_cs (s : State) (r : SegReg) : (s.holdOff r).cs = s.cs := rfl
@[simp] theorem State.holdOff_ss (s : State) (r : SegReg) : (s.holdOff r).ss = s.ss := rfl
@[simp] theorem State.holdOff_ds (s : State) (r : SegReg) : (s.holdOff r).ds = s.ds := rfl
@[simp] theorem State.holdOff_gdtr (s : State) (r : SegReg) : (s.holdOff r).gdtr = s.gdtr := rfl
@[simp] theorem State.holdOff_idtr (s : State) (r : SegReg) : (s.holdOff r).idtr = s.idtr := rfl
@[simp] theorem State.holdOff_ldtr (s : State) (r : SegReg) : (s.holdOff r).ldtr = s.ldtr := rfl
@[simp] theorem State.holdOff_tr (s : State) (r : SegReg) : (s.holdOff r).tr = s.tr := rfl
@[simp] theorem State.holdOff_numeric (s : State) (r : SegReg) : (s.holdOff r).numeric = s.numeric := rfl
@[simp] theorem State.holdOff_mem (s : State) (r : SegReg) : (s.holdOff r).mem = s.mem := rfl
@[simp] theorem State.holdOff_superseded (s : State) (r : SegReg) : (s.holdOff r).superseded = s.superseded := rfl
@[simp] theorem State.holdOff_exc9Pending (s : State) (r : SegReg) : (s.holdOff r).exc9Pending = s.exc9Pending := rfl
@[simp] theorem State.holdOff_intShadow (s : State) (r : SegReg) : (s.holdOff r).intShadow = (s.intShadow || decide (r = .ss)) := rfl
@[simp] theorem State.holdOff_ioLog (s : State) (r : SegReg) : (s.holdOff r).ioLog = s.ioLog := rfl
@[simp] theorem State.holdOff_inputs (s : State) (r : SegReg) : (s.holdOff r).inputs = s.inputs := rfl
@[simp] theorem State.holdOff_platform (s : State) (r : SegReg) : (s.holdOff r).platform = s.platform := rfl
@[simp] theorem State.holdOff_ip1 (s : State) (r : SegReg) : (s.holdOff r).ip1 = s.ip1 := rfl
@[simp] theorem State.holdOff_ipPastEnd (s : State) (r : SegReg) : (s.holdOff r).ipPastEnd = s.ipPastEnd := rfl
@[simp] theorem State.holdOff_prefixLen (s : State) (r : SegReg) : (s.holdOff r).prefixLen = s.prefixLen := rfl
@[simp] theorem State.holdOff_override (s : State) (r : SegReg) : (s.holdOff r).override = s.override := rfl
@[simp] theorem State.holdOff_lock (s : State) (r : SegReg) : (s.holdOff r).lock = s.lock := rfl
@[simp] theorem State.holdOff_freeIndex (s : State) (r : SegReg) : (s.holdOff r).freeIndex = s.freeIndex := rfl

@[simp] theorem OpSize.setReg_regs {ρ : Type} {w : Nat} (z : OpSize ρ w) (s : State) (r : ρ) (v : BitVec w) : (z.setReg s r v).regs = z.set s.regs r v := rfl
@[simp] theorem OpSize.setReg_ip {ρ : Type} {w : Nat} (z : OpSize ρ w) (s : State) (r : ρ) (v : BitVec w) : (z.setReg s r v).ip = s.ip := rfl
@[simp] theorem OpSize.setReg_flags {ρ : Type} {w : Nat} (z : OpSize ρ w) (s : State) (r : ρ) (v : BitVec w) : (z.setReg s r v).flags = s.flags := rfl
@[simp] theorem OpSize.setReg_msw {ρ : Type} {w : Nat} (z : OpSize ρ w) (s : State) (r : ρ) (v : BitVec w) : (z.setReg s r v).msw = s.msw := rfl
@[simp] theorem OpSize.setReg_es {ρ : Type} {w : Nat} (z : OpSize ρ w) (s : State) (r : ρ) (v : BitVec w) : (z.setReg s r v).es = s.es := rfl
@[simp] theorem OpSize.setReg_cs {ρ : Type} {w : Nat} (z : OpSize ρ w) (s : State) (r : ρ) (v : BitVec w) : (z.setReg s r v).cs = s.cs := rfl
@[simp] theorem OpSize.setReg_ss {ρ : Type} {w : Nat} (z : OpSize ρ w) (s : State) (r : ρ) (v : BitVec w) : (z.setReg s r v).ss = s.ss := rfl
@[simp] theorem OpSize.setReg_ds {ρ : Type} {w : Nat} (z : OpSize ρ w) (s : State) (r : ρ) (v : BitVec w) : (z.setReg s r v).ds = s.ds := rfl
@[simp] theorem OpSize.setReg_gdtr {ρ : Type} {w : Nat} (z : OpSize ρ w) (s : State) (r : ρ) (v : BitVec w) : (z.setReg s r v).gdtr = s.gdtr := rfl
@[simp] theorem OpSize.setReg_idtr {ρ : Type} {w : Nat} (z : OpSize ρ w) (s : State) (r : ρ) (v : BitVec w) : (z.setReg s r v).idtr = s.idtr := rfl
@[simp] theorem OpSize.setReg_ldtr {ρ : Type} {w : Nat} (z : OpSize ρ w) (s : State) (r : ρ) (v : BitVec w) : (z.setReg s r v).ldtr = s.ldtr := rfl
@[simp] theorem OpSize.setReg_tr {ρ : Type} {w : Nat} (z : OpSize ρ w) (s : State) (r : ρ) (v : BitVec w) : (z.setReg s r v).tr = s.tr := rfl
@[simp] theorem OpSize.setReg_numeric {ρ : Type} {w : Nat} (z : OpSize ρ w) (s : State) (r : ρ) (v : BitVec w) : (z.setReg s r v).numeric = s.numeric := rfl
@[simp] theorem OpSize.setReg_mem {ρ : Type} {w : Nat} (z : OpSize ρ w) (s : State) (r : ρ) (v : BitVec w) : (z.setReg s r v).mem = s.mem := rfl
@[simp] theorem OpSize.setReg_superseded {ρ : Type} {w : Nat} (z : OpSize ρ w) (s : State) (r : ρ) (v : BitVec w) : (z.setReg s r v).superseded = s.superseded := rfl
@[simp] theorem OpSize.setReg_exc9Pending {ρ : Type} {w : Nat} (z : OpSize ρ w) (s : State) (r : ρ) (v : BitVec w) : (z.setReg s r v).exc9Pending = s.exc9Pending := rfl
@[simp] theorem OpSize.setReg_intShadow {ρ : Type} {w : Nat} (z : OpSize ρ w) (s : State) (r : ρ) (v : BitVec w) : (z.setReg s r v).intShadow = s.intShadow := rfl
@[simp] theorem OpSize.setReg_ioLog {ρ : Type} {w : Nat} (z : OpSize ρ w) (s : State) (r : ρ) (v : BitVec w) : (z.setReg s r v).ioLog = s.ioLog := rfl
@[simp] theorem OpSize.setReg_inputs {ρ : Type} {w : Nat} (z : OpSize ρ w) (s : State) (r : ρ) (v : BitVec w) : (z.setReg s r v).inputs = s.inputs := rfl
@[simp] theorem OpSize.setReg_platform {ρ : Type} {w : Nat} (z : OpSize ρ w) (s : State) (r : ρ) (v : BitVec w) : (z.setReg s r v).platform = s.platform := rfl
@[simp] theorem OpSize.setReg_ip1 {ρ : Type} {w : Nat} (z : OpSize ρ w) (s : State) (r : ρ) (v : BitVec w) : (z.setReg s r v).ip1 = s.ip1 := rfl
@[simp] theorem OpSize.setReg_ipPastEnd {ρ : Type} {w : Nat} (z : OpSize ρ w) (s : State) (r : ρ) (v : BitVec w) : (z.setReg s r v).ipPastEnd = s.ipPastEnd := rfl
@[simp] theorem OpSize.setReg_prefixLen {ρ : Type} {w : Nat} (z : OpSize ρ w) (s : State) (r : ρ) (v : BitVec w) : (z.setReg s r v).prefixLen = s.prefixLen := rfl
@[simp] theorem OpSize.setReg_override {ρ : Type} {w : Nat} (z : OpSize ρ w) (s : State) (r : ρ) (v : BitVec w) : (z.setReg s r v).override = s.override := rfl
@[simp] theorem OpSize.setReg_lock {ρ : Type} {w : Nat} (z : OpSize ρ w) (s : State) (r : ρ) (v : BitVec w) : (z.setReg s r v).lock = s.lock := rfl
@[simp] theorem OpSize.setReg_freeIndex {ρ : Type} {w : Nat} (z : OpSize ρ w) (s : State) (r : ρ) (v : BitVec w) : (z.setReg s r v).freeIndex = s.freeIndex := rfl

@[simp] theorem State.setSeg_regs (s : State) (r : SegReg) (g : Segment) : (s.setSeg r g).regs = s.regs := by cases r <;> rfl
@[simp] theorem State.setSeg_ip (s : State) (r : SegReg) (g : Segment) : (s.setSeg r g).ip = s.ip := by cases r <;> rfl
@[simp] theorem State.setSeg_flags (s : State) (r : SegReg) (g : Segment) : (s.setSeg r g).flags = s.flags := by cases r <;> rfl
@[simp] theorem State.setSeg_msw (s : State) (r : SegReg) (g : Segment) : (s.setSeg r g).msw = s.msw := by cases r <;> rfl
@[simp] theorem State.setSeg_es (s : State) (r : SegReg) (g : Segment) : (s.setSeg r g).es = if r = .es then g else s.es := by cases r <;> rfl
@[simp] theorem State.setSeg_cs (s : State) (r : SegReg) (g : Segment) : (s.setSeg r g).cs = if r = .cs then g else s.cs := by cases r <;> rfl
@[simp] theorem State.setSeg_ss (s : State) (r : SegReg) (g : Segment) : (s.setSeg r g).ss = if r = .ss then g else s.ss := by cases r <;> rfl
@[simp] theorem State.setSeg_ds (s : State) (r : SegReg) (g : Segment) : (s.setSeg r g).ds = if r = .ds then g else s.ds := by cases r <;> rfl
@[simp] theorem State.setSeg_gdtr (s : State) (r : SegReg) (g : Segment) : (s.setSeg r g).gdtr = s.gdtr := by cases r <;> rfl
@[simp] theorem State.setSeg_idtr (s : State) (r : SegReg) (g : Segment) : (s.setSeg r g).idtr = s.idtr := by cases r <;> rfl
@[simp] theorem State.setSeg_ldtr (s : State) (r : SegReg) (g : Segment) : (s.setSeg r g).ldtr = s.ldtr := by cases r <;> rfl
@[simp] theorem State.setSeg_tr (s : State) (r : SegReg) (g : Segment) : (s.setSeg r g).tr = s.tr := by cases r <;> rfl
@[simp] theorem State.setSeg_numeric (s : State) (r : SegReg) (g : Segment) : (s.setSeg r g).numeric = s.numeric := by cases r <;> rfl
@[simp] theorem State.setSeg_mem (s : State) (r : SegReg) (g : Segment) : (s.setSeg r g).mem = s.mem := by cases r <;> rfl
@[simp] theorem State.setSeg_superseded (s : State) (r : SegReg) (g : Segment) : (s.setSeg r g).superseded = s.superseded := by cases r <;> rfl
@[simp] theorem State.setSeg_exc9Pending (s : State) (r : SegReg) (g : Segment) : (s.setSeg r g).exc9Pending = s.exc9Pending := by cases r <;> rfl
@[simp] theorem State.setSeg_intShadow (s : State) (r : SegReg) (g : Segment) : (s.setSeg r g).intShadow = s.intShadow := by cases r <;> rfl
@[simp] theorem State.setSeg_ioLog (s : State) (r : SegReg) (g : Segment) : (s.setSeg r g).ioLog = s.ioLog := by cases r <;> rfl
@[simp] theorem State.setSeg_inputs (s : State) (r : SegReg) (g : Segment) : (s.setSeg r g).inputs = s.inputs := by cases r <;> rfl
@[simp] theorem State.setSeg_platform (s : State) (r : SegReg) (g : Segment) : (s.setSeg r g).platform = s.platform := by cases r <;> rfl
@[simp] theorem State.setSeg_ip1 (s : State) (r : SegReg) (g : Segment) : (s.setSeg r g).ip1 = s.ip1 := by cases r <;> rfl
@[simp] theorem State.setSeg_ipPastEnd (s : State) (r : SegReg) (g : Segment) : (s.setSeg r g).ipPastEnd = s.ipPastEnd := by cases r <;> rfl
@[simp] theorem State.setSeg_prefixLen (s : State) (r : SegReg) (g : Segment) : (s.setSeg r g).prefixLen = s.prefixLen := by cases r <;> rfl
@[simp] theorem State.setSeg_override (s : State) (r : SegReg) (g : Segment) : (s.setSeg r g).override = s.override := by cases r <;> rfl
@[simp] theorem State.setSeg_lock (s : State) (r : SegReg) (g : Segment) : (s.setSeg r g).lock = s.lock := by cases r <;> rfl
@[simp] theorem State.setSeg_freeIndex (s : State) (r : SegReg) (g : Segment) : (s.setSeg r g).freeIndex = s.freeIndex := by cases r <;> rfl

@[simp] theorem State.setByte_regs (s : State) (a : Nat) (v : Byte) : (s.setByte a v).regs = s.regs := by unfold State.setByte; split <;> rfl
@[simp] theorem State.setWord_regs (s : State) (a : Nat) (v : Word) : (s.setWord a v).regs = s.regs := by simp [State.setWord]
@[simp] theorem State.setByte_ip (s : State) (a : Nat) (v : Byte) : (s.setByte a v).ip = s.ip := by unfold State.setByte; split <;> rfl
@[simp] theorem State.setWord_ip (s : State) (a : Nat) (v : Word) : (s.setWord a v).ip = s.ip := by simp [State.setWord]
@[simp] theorem State.setByte_flags (s : State) (a : Nat) (v : Byte) : (s.setByte a v).flags = s.flags := by unfold State.setByte; split <;> rfl
@[simp] theorem State.setWord_flags (s : State) (a : Nat) (v : Word) : (s.setWord a v).flags = s.flags := by simp [State.setWord]
@[simp] theorem State.setByte_msw (s : State) (a : Nat) (v : Byte) : (s.setByte a v).msw = s.msw := by unfold State.setByte; split <;> rfl
@[simp] theorem State.setWord_msw (s : State) (a : Nat) (v : Word) : (s.setWord a v).msw = s.msw := by simp [State.setWord]
@[simp] theorem State.setByte_es (s : State) (a : Nat) (v : Byte) : (s.setByte a v).es = s.es := by unfold State.setByte; split <;> rfl
@[simp] theorem State.setWord_es (s : State) (a : Nat) (v : Word) : (s.setWord a v).es = s.es := by simp [State.setWord]
@[simp] theorem State.setByte_cs (s : State) (a : Nat) (v : Byte) : (s.setByte a v).cs = s.cs := by unfold State.setByte; split <;> rfl
@[simp] theorem State.setWord_cs (s : State) (a : Nat) (v : Word) : (s.setWord a v).cs = s.cs := by simp [State.setWord]
@[simp] theorem State.setByte_ss (s : State) (a : Nat) (v : Byte) : (s.setByte a v).ss = s.ss := by unfold State.setByte; split <;> rfl
@[simp] theorem State.setWord_ss (s : State) (a : Nat) (v : Word) : (s.setWord a v).ss = s.ss := by simp [State.setWord]
@[simp] theorem State.setByte_ds (s : State) (a : Nat) (v : Byte) : (s.setByte a v).ds = s.ds := by unfold State.setByte; split <;> rfl
@[simp] theorem State.setWord_ds (s : State) (a : Nat) (v : Word) : (s.setWord a v).ds = s.ds := by simp [State.setWord]
@[simp] theorem State.setByte_gdtr (s : State) (a : Nat) (v : Byte) : (s.setByte a v).gdtr = s.gdtr := by unfold State.setByte; split <;> rfl
@[simp] theorem State.setWord_gdtr (s : State) (a : Nat) (v : Word) : (s.setWord a v).gdtr = s.gdtr := by simp [State.setWord]
@[simp] theorem State.setByte_idtr (s : State) (a : Nat) (v : Byte) : (s.setByte a v).idtr = s.idtr := by unfold State.setByte; split <;> rfl
@[simp] theorem State.setWord_idtr (s : State) (a : Nat) (v : Word) : (s.setWord a v).idtr = s.idtr := by simp [State.setWord]
@[simp] theorem State.setByte_ldtr (s : State) (a : Nat) (v : Byte) : (s.setByte a v).ldtr = s.ldtr := by unfold State.setByte; split <;> rfl
@[simp] theorem State.setWord_ldtr (s : State) (a : Nat) (v : Word) : (s.setWord a v).ldtr = s.ldtr := by simp [State.setWord]
@[simp] theorem State.setByte_tr (s : State) (a : Nat) (v : Byte) : (s.setByte a v).tr = s.tr := by unfold State.setByte; split <;> rfl
@[simp] theorem State.setWord_tr (s : State) (a : Nat) (v : Word) : (s.setWord a v).tr = s.tr := by simp [State.setWord]
@[simp] theorem State.setByte_numeric (s : State) (a : Nat) (v : Byte) : (s.setByte a v).numeric = s.numeric := by unfold State.setByte; split <;> rfl
@[simp] theorem State.setWord_numeric (s : State) (a : Nat) (v : Word) : (s.setWord a v).numeric = s.numeric := by simp [State.setWord]
@[simp] theorem State.setByte_exc9Pending (s : State) (a : Nat) (v : Byte) : (s.setByte a v).exc9Pending = s.exc9Pending := by unfold State.setByte; split <;> rfl
@[simp] theorem State.setWord_exc9Pending (s : State) (a : Nat) (v : Word) : (s.setWord a v).exc9Pending = s.exc9Pending := by simp [State.setWord]
@[simp] theorem State.setByte_intShadow (s : State) (a : Nat) (v : Byte) : (s.setByte a v).intShadow = s.intShadow := by unfold State.setByte; split <;> rfl
@[simp] theorem State.setWord_intShadow (s : State) (a : Nat) (v : Word) : (s.setWord a v).intShadow = s.intShadow := by simp [State.setWord]
@[simp] theorem State.setByte_ioLog (s : State) (a : Nat) (v : Byte) : (s.setByte a v).ioLog = s.ioLog := by unfold State.setByte; split <;> rfl
@[simp] theorem State.setWord_ioLog (s : State) (a : Nat) (v : Word) : (s.setWord a v).ioLog = s.ioLog := by simp [State.setWord]
@[simp] theorem State.setByte_inputs (s : State) (a : Nat) (v : Byte) : (s.setByte a v).inputs = s.inputs := by unfold State.setByte; split <;> rfl
@[simp] theorem State.setWord_inputs (s : State) (a : Nat) (v : Word) : (s.setWord a v).inputs = s.inputs := by simp [State.setWord]
@[simp] theorem State.setByte_platform (s : State) (a : Nat) (v : Byte) : (s.setByte a v).platform = s.platform := by unfold State.setByte; split <;> rfl
@[simp] theorem State.setWord_platform (s : State) (a : Nat) (v : Word) : (s.setWord a v).platform = s.platform := by simp [State.setWord]
@[simp] theorem State.setByte_ip1 (s : State) (a : Nat) (v : Byte) : (s.setByte a v).ip1 = s.ip1 := by unfold State.setByte; split <;> rfl
@[simp] theorem State.setWord_ip1 (s : State) (a : Nat) (v : Word) : (s.setWord a v).ip1 = s.ip1 := by simp [State.setWord]
@[simp] theorem State.setByte_ipPastEnd (s : State) (a : Nat) (v : Byte) : (s.setByte a v).ipPastEnd = s.ipPastEnd := by unfold State.setByte; split <;> rfl
@[simp] theorem State.setWord_ipPastEnd (s : State) (a : Nat) (v : Word) : (s.setWord a v).ipPastEnd = s.ipPastEnd := by simp [State.setWord]
@[simp] theorem State.setByte_prefixLen (s : State) (a : Nat) (v : Byte) : (s.setByte a v).prefixLen = s.prefixLen := by unfold State.setByte; split <;> rfl
@[simp] theorem State.setWord_prefixLen (s : State) (a : Nat) (v : Word) : (s.setWord a v).prefixLen = s.prefixLen := by simp [State.setWord]
@[simp] theorem State.setByte_override (s : State) (a : Nat) (v : Byte) : (s.setByte a v).override = s.override := by unfold State.setByte; split <;> rfl
@[simp] theorem State.setWord_override (s : State) (a : Nat) (v : Word) : (s.setWord a v).override = s.override := by simp [State.setWord]
@[simp] theorem State.setByte_lock (s : State) (a : Nat) (v : Byte) : (s.setByte a v).lock = s.lock := by unfold State.setByte; split <;> rfl
@[simp] theorem State.setWord_lock (s : State) (a : Nat) (v : Word) : (s.setWord a v).lock = s.lock := by simp [State.setWord]
@[simp] theorem State.setByte_freeIndex (s : State) (a : Nat) (v : Byte) : (s.setByte a v).freeIndex = s.freeIndex := by unfold State.setByte; split <;> rfl
@[simp] theorem State.setWord_freeIndex (s : State) (a : Nat) (v : Word) : (s.setWord a v).freeIndex = s.freeIndex := by simp [State.setWord]

@[simp] theorem State.loadFrom_regs (s : State) (r : SegReg) (v : Word) (d : Descriptor) (l : BitVec 2) : (s.loadFrom r v d l).regs = s.regs := by simp [State.loadFrom]
@[simp] theorem State.loadFrom_ip (s : State) (r : SegReg) (v : Word) (d : Descriptor) (l : BitVec 2) : (s.loadFrom r v d l).ip = s.ip := by simp [State.loadFrom]
@[simp] theorem State.loadFrom_flags (s : State) (r : SegReg) (v : Word) (d : Descriptor) (l : BitVec 2) : (s.loadFrom r v d l).flags = s.flags := by simp [State.loadFrom]
@[simp] theorem State.loadFrom_msw (s : State) (r : SegReg) (v : Word) (d : Descriptor) (l : BitVec 2) : (s.loadFrom r v d l).msw = s.msw := by simp [State.loadFrom]
@[simp] theorem State.loadFrom_gdtr (s : State) (r : SegReg) (v : Word) (d : Descriptor) (l : BitVec 2) : (s.loadFrom r v d l).gdtr = s.gdtr := by simp [State.loadFrom]
@[simp] theorem State.loadFrom_idtr (s : State) (r : SegReg) (v : Word) (d : Descriptor) (l : BitVec 2) : (s.loadFrom r v d l).idtr = s.idtr := by simp [State.loadFrom]
@[simp] theorem State.loadFrom_ldtr (s : State) (r : SegReg) (v : Word) (d : Descriptor) (l : BitVec 2) : (s.loadFrom r v d l).ldtr = s.ldtr := by simp [State.loadFrom]
@[simp] theorem State.loadFrom_tr (s : State) (r : SegReg) (v : Word) (d : Descriptor) (l : BitVec 2) : (s.loadFrom r v d l).tr = s.tr := by simp [State.loadFrom]
@[simp] theorem State.loadFrom_numeric (s : State) (r : SegReg) (v : Word) (d : Descriptor) (l : BitVec 2) : (s.loadFrom r v d l).numeric = s.numeric := by simp [State.loadFrom]
@[simp] theorem State.loadFrom_exc9Pending (s : State) (r : SegReg) (v : Word) (d : Descriptor) (l : BitVec 2) : (s.loadFrom r v d l).exc9Pending = s.exc9Pending := by simp [State.loadFrom]
@[simp] theorem State.loadFrom_intShadow (s : State) (r : SegReg) (v : Word) (d : Descriptor) (l : BitVec 2) : (s.loadFrom r v d l).intShadow = s.intShadow := by simp [State.loadFrom]
@[simp] theorem State.loadFrom_ioLog (s : State) (r : SegReg) (v : Word) (d : Descriptor) (l : BitVec 2) : (s.loadFrom r v d l).ioLog = s.ioLog := by simp [State.loadFrom]
@[simp] theorem State.loadFrom_inputs (s : State) (r : SegReg) (v : Word) (d : Descriptor) (l : BitVec 2) : (s.loadFrom r v d l).inputs = s.inputs := by simp [State.loadFrom]
@[simp] theorem State.loadFrom_platform (s : State) (r : SegReg) (v : Word) (d : Descriptor) (l : BitVec 2) : (s.loadFrom r v d l).platform = s.platform := by simp [State.loadFrom]
@[simp] theorem State.loadFrom_ip1 (s : State) (r : SegReg) (v : Word) (d : Descriptor) (l : BitVec 2) : (s.loadFrom r v d l).ip1 = s.ip1 := by simp [State.loadFrom]
@[simp] theorem State.loadFrom_ipPastEnd (s : State) (r : SegReg) (v : Word) (d : Descriptor) (l : BitVec 2) : (s.loadFrom r v d l).ipPastEnd = s.ipPastEnd := by simp [State.loadFrom]
@[simp] theorem State.loadFrom_prefixLen (s : State) (r : SegReg) (v : Word) (d : Descriptor) (l : BitVec 2) : (s.loadFrom r v d l).prefixLen = s.prefixLen := by simp [State.loadFrom]
@[simp] theorem State.loadFrom_override (s : State) (r : SegReg) (v : Word) (d : Descriptor) (l : BitVec 2) : (s.loadFrom r v d l).override = s.override := by simp [State.loadFrom]
@[simp] theorem State.loadFrom_lock (s : State) (r : SegReg) (v : Word) (d : Descriptor) (l : BitVec 2) : (s.loadFrom r v d l).lock = s.lock := by simp [State.loadFrom]
@[simp] theorem State.loadFrom_freeIndex (s : State) (r : SegReg) (v : Word) (d : Descriptor) (l : BitVec 2) : (s.loadFrom r v d l).freeIndex = s.freeIndex := by simp [State.loadFrom]
@[simp] theorem loadSegReal_regs (s : State) (r : SegReg) (v : Word) : (loadSegReal s r v).regs = s.regs := by simp [loadSegReal]
@[simp] theorem loadSegReal_ip (s : State) (r : SegReg) (v : Word) : (loadSegReal s r v).ip = s.ip := by simp [loadSegReal]
@[simp] theorem loadSegReal_flags (s : State) (r : SegReg) (v : Word) : (loadSegReal s r v).flags = s.flags := by simp [loadSegReal]
@[simp] theorem loadSegReal_msw (s : State) (r : SegReg) (v : Word) : (loadSegReal s r v).msw = s.msw := by simp [loadSegReal]
@[simp] theorem loadSegReal_es (s : State) (r : SegReg) (v : Word) : (loadSegReal s r v).es = if r = .es then ⟨v, { s.es.cache with base := v.setWidth 24 <<< 4 }⟩ else s.es := by unfold loadSegReal; cases r <;> rfl
@[simp] theorem loadSegReal_cs (s : State) (r : SegReg) (v : Word) : (loadSegReal s r v).cs = if r = .cs then ⟨v, { s.cs.cache with base := v.setWidth 24 <<< 4 }⟩ else s.cs := by unfold loadSegReal; cases r <;> rfl
@[simp] theorem loadSegReal_ss (s : State) (r : SegReg) (v : Word) : (loadSegReal s r v).ss = if r = .ss then ⟨v, { s.ss.cache with base := v.setWidth 24 <<< 4 }⟩ else s.ss := by unfold loadSegReal; cases r <;> rfl
@[simp] theorem loadSegReal_ds (s : State) (r : SegReg) (v : Word) : (loadSegReal s r v).ds = if r = .ds then ⟨v, { s.ds.cache with base := v.setWidth 24 <<< 4 }⟩ else s.ds := by unfold loadSegReal; cases r <;> rfl
@[simp] theorem loadSegReal_gdtr (s : State) (r : SegReg) (v : Word) : (loadSegReal s r v).gdtr = s.gdtr := by simp [loadSegReal]
@[simp] theorem loadSegReal_idtr (s : State) (r : SegReg) (v : Word) : (loadSegReal s r v).idtr = s.idtr := by simp [loadSegReal]
@[simp] theorem loadSegReal_ldtr (s : State) (r : SegReg) (v : Word) : (loadSegReal s r v).ldtr = s.ldtr := by simp [loadSegReal]
@[simp] theorem loadSegReal_tr (s : State) (r : SegReg) (v : Word) : (loadSegReal s r v).tr = s.tr := by simp [loadSegReal]
@[simp] theorem loadSegReal_numeric (s : State) (r : SegReg) (v : Word) : (loadSegReal s r v).numeric = s.numeric := by simp [loadSegReal]
@[simp] theorem loadSegReal_mem (s : State) (r : SegReg) (v : Word) : (loadSegReal s r v).mem = s.mem := by simp [loadSegReal]
@[simp] theorem loadSegReal_superseded (s : State) (r : SegReg) (v : Word) : (loadSegReal s r v).superseded = s.superseded := by simp [loadSegReal]
@[simp] theorem loadSegReal_exc9Pending (s : State) (r : SegReg) (v : Word) : (loadSegReal s r v).exc9Pending = s.exc9Pending := by simp [loadSegReal]
@[simp] theorem loadSegReal_intShadow (s : State) (r : SegReg) (v : Word) : (loadSegReal s r v).intShadow = s.intShadow := by simp [loadSegReal]
@[simp] theorem loadSegReal_ioLog (s : State) (r : SegReg) (v : Word) : (loadSegReal s r v).ioLog = s.ioLog := by simp [loadSegReal]
@[simp] theorem loadSegReal_inputs (s : State) (r : SegReg) (v : Word) : (loadSegReal s r v).inputs = s.inputs := by simp [loadSegReal]
@[simp] theorem loadSegReal_platform (s : State) (r : SegReg) (v : Word) : (loadSegReal s r v).platform = s.platform := by simp [loadSegReal]
@[simp] theorem loadSegReal_ip1 (s : State) (r : SegReg) (v : Word) : (loadSegReal s r v).ip1 = s.ip1 := by simp [loadSegReal]
@[simp] theorem loadSegReal_ipPastEnd (s : State) (r : SegReg) (v : Word) : (loadSegReal s r v).ipPastEnd = s.ipPastEnd := by simp [loadSegReal]
@[simp] theorem loadSegReal_prefixLen (s : State) (r : SegReg) (v : Word) : (loadSegReal s r v).prefixLen = s.prefixLen := by simp [loadSegReal]
@[simp] theorem loadSegReal_override (s : State) (r : SegReg) (v : Word) : (loadSegReal s r v).override = s.override := by simp [loadSegReal]
@[simp] theorem loadSegReal_lock (s : State) (r : SegReg) (v : Word) : (loadSegReal s r v).lock = s.lock := by simp [loadSegReal]
@[simp] theorem loadSegReal_freeIndex (s : State) (r : SegReg) (v : Word) : (loadSegReal s r v).freeIndex = s.freeIndex := by simp [loadSegReal]

@[simp] theorem State.setSeg_seg (s : State) (r q : SegReg) (g : Segment) : (s.setSeg r g).seg q = if r = q then g else s.seg q := by
  cases r <;> cases q <;> rfl

end Sys2Proof.Machine
end

