-- ==== Sys2Proof/Laws/Memory.lean ====
section
/-! SUPPORT. What reading and writing memory do: a read after a write, and the canonical form. -/

namespace Sys2Proof.Machine

theorem Memory.wfAbove_mono {m : Memory} {lo hi : Nat} (h : lo ≤ hi) (w : Memory.wfAbove m hi = true) :
    Memory.wfAbove m lo = true := by
  cases m with
  | nil => rfl
  | cons c t =>
    simp only [Memory.wfAbove, Bool.and_eq_true, decide_eq_true_eq] at w ⊢
    exact ⟨⟨le_trans h w.1.1, w.1.2⟩, w.2⟩

/-- An address below every listed one reads as an unlisted byte. -/
theorem Memory.read_below {m : Memory} {lo a : Nat} (w : Memory.wfAbove m lo = true) (h : a < lo) : m.read a = 0#8 := by
  induction m generalizing lo with
  | nil => rfl
  | cons c t ih =>
    simp only [Memory.wfAbove, Bool.and_eq_true, decide_eq_true_eq] at w
    have hk : c.1 ≠ a := by omega
    simp only [Memory.read, hk, if_false]
    exact ih w.2 (by omega)

theorem Memory.read_write_other (m : Memory) {a b : Nat} (v : Byte) (h : b ≠ a) : (m.write a v).read b = m.read b := by
  induction m with
  | nil => unfold Memory.write; split <;> simp [Memory.read, h.symm]
  | cons c t ih =>
    unfold Memory.write
    split
    · split <;> simp [Memory.read, h.symm]
    · split
      · rename_i hk
        have hc : c.1 ≠ b := by omega
        split <;> simp [Memory.read, hc, h.symm]
      · simp only [Memory.read, ih]

theorem Memory.read_write_same_above {m : Memory} {lo : Nat} (a : Nat) (v : Byte) (w : Memory.wfAbove m lo = true) :
    (m.write a v).read a = v := by
  induction m generalizing lo with
  | nil => unfold Memory.write; split <;> simp_all [Memory.read]
  | cons c t ih =>
    simp only [Memory.wfAbove, Bool.and_eq_true, decide_eq_true_eq] at w
    unfold Memory.write
    split
    · split
      · rename_i hv
        have hc : c.1 ≠ a := by omega
        simp only [Memory.read, hc, if_false]
        rw [hv]
        exact Memory.read_below w.2 (by omega)
      · simp [Memory.read]
    · split
      · split
        · rename_i hv
          rw [hv]
          exact Memory.read_below w.2 (by omega)
        · simp [Memory.read]
      · rename_i hk
        have hc : c.1 ≠ a := by omega
        simp only [Memory.read, hc, if_false]
        exact ih w.2

/-- A byte written reads back. -/
theorem Memory.read_write_same {m : Memory} (a : Nat) (v : Byte) (w : m.wf = true) : (m.write a v).read a = v :=
  Memory.read_write_same_above a v w

theorem Memory.wfAbove_write {m : Memory} {lo a : Nat} (v : Byte) (h : lo ≤ a) (w : Memory.wfAbove m lo = true) :
    Memory.wfAbove (m.write a v) lo = true := by
  induction m generalizing lo with
  | nil => unfold Memory.write; split <;> simp_all [Memory.wfAbove]
  | cons c t ih =>
    have w' := w
    simp only [Memory.wfAbove, Bool.and_eq_true, decide_eq_true_eq] at w
    unfold Memory.write
    split
    · split
      · exact w'
      · simp only [Memory.wfAbove, Bool.and_eq_true, decide_eq_true_eq]
        exact ⟨⟨h, by simp_all⟩, ⟨by omega, w.1.2⟩, w.2⟩
    · split
      · split
        · exact Memory.wfAbove_mono (by omega) w.2
        · simp only [Memory.wfAbove, Bool.and_eq_true, decide_eq_true_eq]
          exact ⟨⟨h, by simp_all⟩, by simp_all⟩
      · simp only [Memory.wfAbove, Bool.and_eq_true, decide_eq_true_eq]
        exact ⟨w.1, ih (by omega) w.2⟩

/-- A write keeps the canonical form. -/
theorem Memory.wf_write {m : Memory} (a : Nat) (v : Byte) (w : m.wf = true) : (m.write a v).wf = true :=
  Memory.wfAbove_write v (Nat.zero_le a) w

/-- `placeBytes` keeps the canonical form. -/
theorem placeBytes_wf {m : Memory} (l : List Byte) (a : Nat) (w : m.wf = true) : (placeBytes m a l).wf = true := by
  induction l generalizing m a with
  | nil => exact w
  | cons b t ih => exact ih (a + 1) (Memory.wf_write a b w)

/-- Reset memory is in canonical form. -/
theorem reset_mem_wf : State.reset.mem.wf = true := rfl

/-- Storing bytes where the next instruction is fetched keeps the canonical form. -/
theorem State.withFetchWord_mem_wf {s : State} (nbits w : Nat) (h : s.mem.wf = true) :
    (s.withFetchWord nbits w).mem.wf = true := placeBytes_wf _ _ h

/-! ### Bytes of a state -/

theorem State.byteFor_congr {s t : State} {p : Purpose} {a : Nat} (hp : t.platform = s.platform)
    (hi : t.freeIndex = s.freeIndex) (hm : t.mem.read a = s.mem.read a) : t.byteFor p a = s.byteFor p a := by
  unfold State.byteFor State.absentAt
  rw [hp, hi, hm]

theorem State.byte_congr {s t : State} {a : Nat} (hp : t.platform = s.platform) (hi : t.freeIndex = s.freeIndex)
    (hm : t.mem.read a = s.mem.read a) : t.byte a = s.byte a := State.byteFor_congr hp hi hm

/-- Where memory is present a byte reads the same for every purpose. -/
theorem State.byteFor_present {s : State} {a : Nat} (p : Purpose) (h : s.absentAt a = false) : s.byteFor p a = s.byte a := by
  simp [State.byte, State.byteFor, h]

/-- What is writable is present. -/
theorem State.writableAt_present {s : State} {a : Nat} (h : s.writableAt a = true) : s.absentAt a = false := by
  simp only [State.writableAt, Bool.and_eq_true, Bool.not_eq_true'] at h
  exact h.1

theorem State.setByte_mem_wf {s : State} (a : Nat) (v : Byte) (w : s.mem.wf = true) : (s.setByte a v).mem.wf = true := by
  unfold State.setByte
  split
  · exact Memory.wf_write a v w
  · exact w

theorem State.setWord_mem_wf {s : State} (a : Nat) (v : Word) (w : s.mem.wf = true) : (s.setWord a v).mem.wf = true :=
  State.setByte_mem_wf _ _ (State.setByte_mem_wf _ _ w)

theorem State.setByte_read_other (s : State) {a b : Nat} (v : Byte) (h : b ≠ a) :
    (s.setByte a v).mem.read b = s.mem.read b := by
  unfold State.setByte
  split
  · exact Memory.read_write_other s.mem v h
  · rfl

/-- A byte store leaves every other byte, whatever it is read for. -/
theorem State.setByte_byteFor_other (s : State) (p : Purpose) {a b : Nat} (v : Byte) (h : b ≠ a) :
    (s.setByte a v).byteFor p b = s.byteFor p b :=
  State.byteFor_congr (by simp) (by simp) (State.setByte_read_other s v h)

/-- A byte store leaves every other byte. -/
theorem State.setByte_byte_other (s : State) {a b : Nat} (v : Byte) (h : b ≠ a) : (s.setByte a v).byte b = s.byte b :=
  State.setByte_byteFor_other s .data v h

theorem State.absentAt_setByte (s : State) (a b : Nat) (v : Byte) : (s.setByte a v).absentAt b = s.absentAt b := by
  simp [State.absentAt]

theorem State.writableAt_congr {s t : State} (hp : t.platform = s.platform) (a : Nat) : t.writableAt a = s.writableAt a := by
  unfold State.writableAt State.absentAt
  rw [hp]

theorem State.writableAt_setByte (s : State) (a b : Nat) (v : Byte) : (s.setByte a v).writableAt b = s.writableAt b :=
  State.writableAt_congr (by simp) b

/-- A byte stored in RAM reads back. -/
theorem State.setByte_byte_same {s : State} {a : Nat} (v : Byte) (w : s.mem.wf = true) (h : s.writableAt a = true) :
    (s.setByte a v).byte a = v := by
  have ha : (s.setByte a v).absentAt a = false := by simpa [State.absentAt] using State.writableAt_present h
  simp only [State.byte, State.byteFor, ha]
  unfold State.setByte
  simp only [h]
  exact Memory.read_write_same a v w

/-- A word store leaves every byte but its two. -/
theorem State.setWord_byte_other (s : State) {a b : Nat} (v : Word) (h : b < a ∨ a + 2 ≤ b) :
    (s.setWord a v).byte b = s.byte b := by
  unfold State.setWord
  rw [State.setByte_byte_other _ _ (by omega), State.setByte_byte_other _ _ (by omega)]

theorem State.setWord_byte_low {s : State} {a : Nat} (v : Word) (w : s.mem.wf = true) (h : s.writableAt a = true) :
    (s.setWord a v).byte a = lowByte v := by
  unfold State.setWord
  rw [State.setByte_byte_other _ _ (by omega), State.setByte_byte_same _ w h]

theorem State.setWord_byte_high {s : State} {a : Nat} (v : Word) (w : s.mem.wf = true) (h : s.writableAt (a + 1) = true) :
    (s.setWord a v).byte (a + 1) = highByte v := by
  unfold State.setWord
  exact State.setByte_byte_same _ (State.setByte_mem_wf _ _ w) (by rw [State.writableAt_setByte]; exact h)

theorem wordOf_lowByte_highByte (v : Word) : wordOf (lowByte v) (highByte v) = v := by
  refine BitVec.eq_of_toNat_eq ?_
  have hv := v.isLt
  simp only [wordOf, lowByte, highByte, BitVec.toNat_append, BitVec.extractLsb'_toNat,
    Nat.shiftRight_eq_div_pow, Nat.shiftLeft_eq]
  rw [← Nat.shiftLeft_eq, ← Nat.shiftLeft_add_eq_or_of_lt (Nat.mod_lt _ (by norm_num)), Nat.shiftLeft_eq]
  omega

/-- A word is its two bytes. -/
theorem State.word_eq (s : State) (a : Nat) : s.word a = wordOf (s.byte a) (s.byte (a + 1)) := rfl

/-- A word stored in RAM reads back. -/
theorem State.setWord_word {s : State} {a : Nat} (v : Word) (w : s.mem.wf = true) (h : s.writableAt a = true)
    (h1 : s.writableAt (a + 1) = true) : (s.setWord a v).word a = v := by
  rw [State.word_eq, State.setWord_byte_low v w h, State.setWord_byte_high v w h1, wordOf_lowByte_highByte]

/-! ### What a store changes, as the statements say it -/

/-- A state that differs from `s` in no byte that is read. -/
theorem SameBytes.of_mem {s t : State} (hp : t.platform = s.platform) (hi : t.freeIndex = s.freeIndex)
    (hm : t.mem = s.mem) : SameBytes s t := fun _ => State.byte_congr hp hi (by rw [hm])

/-- A store that is discarded changes nothing. -/
theorem State.setByte_discarded {s : State} {a : Nat} (v : Byte) (h : s.writableAt a = false) : s.setByte a v = s := by
  simp [State.setByte, h]

/-- A byte store, followed by changes that no read of memory sees, wrote that byte. -/
theorem WroteByte.of_mem {s t : State} {a : Nat} {v : Byte} (hp : t.platform = s.platform)
    (hi : t.freeIndex = s.freeIndex) (hm : t.mem = (s.setByte a v).mem) : WroteByte s t a v := by
  have k : SameBytes (s.setByte a v) t := .of_mem (by simp [hp]) (by simp [hi]) hm
  refine ⟨fun b hb => (k b).trans (State.setByte_byte_other s v hb), fun ha w => (k a).trans (State.setByte_byte_same v w ha),
    fun ha => (k a).trans ?_⟩
  rw [State.setByte_discarded v ha]

/-- A word store, followed by changes that no read of memory sees, wrote that word. -/
theorem WroteWord.of_mem {s t : State} {a : Nat} {v : Word} (hp : t.platform = s.platform)
    (hi : t.freeIndex = s.freeIndex) (hm : t.mem = (s.setWord a v).mem) : WroteWord s t a v := by
  have k : SameBytes (s.setWord a v) t := .of_mem (by simp [hp]) (by simp [hi]) hm
  refine ⟨fun b hb => (k b).trans (State.setWord_byte_other s v hb), fun ha w => (k a).trans (State.setWord_byte_low v w ha),
    fun ha w => (k _).trans (State.setWord_byte_high v w ha), fun ha => (k a).trans ?_, fun ha => (k _).trans ?_⟩
  · unfold State.setWord
    rw [State.setByte_byte_other _ _ (by omega), State.setByte_discarded _ ha]
  · unfold State.setWord
    rw [State.setByte_discarded _ (by rw [State.writableAt_setByte]; exact ha), State.setByte_byte_other _ _ (by omega)]

/-- A word store leaves every word that does not overlap it. -/
theorem State.setWord_word_other (s : State) {a b : Nat} (v : Word) (h : b + 2 ≤ a ∨ a + 2 ≤ b) :
    (s.setWord a v).word b = s.word b := by
  rw [State.word_eq, State.word_eq, State.setWord_byte_other _ _ (by omega), State.setWord_byte_other _ _ (by omega)]

/-! ### Several words stored -/

theorem WroteWords.setWord (s : State) (a : Nat) (v : Word) : WroteWords s (s.setWord a v) [(a, v)] [] := by
  refine ⟨fun b _ h => State.setWord_byte_other s v (by simpa using h), fun w _ p hm h0 h1 => ?_⟩
  have hm : p = (a, v) := by simpa using hm
  subst hm
  exact State.setWord_word v w h0 h1

theorem WroteWords.setByte (s : State) (a : Nat) (v : Byte) : WroteWords s (s.setByte a v) [] [a] :=
  ⟨fun b h _ => State.setByte_byte_other s v (by simpa using h), fun _ _ p hm => by cases hm⟩

/-- A change that no read of memory sees. -/
theorem WroteWords.of_mem {s t : State} (hp : t.platform = s.platform) (hi : t.freeIndex = s.freeIndex)
    (hm : t.mem = s.mem) : WroteWords s t [] [] :=
  ⟨fun b _ _ => SameBytes.of_mem hp hi hm b, fun _ _ p hm => by cases hm⟩

/-- Stores one after the other, of words that do not overlap. -/
theorem WroteWords.trans {s t u : State} {l l' : List (Nat × Word)} {ex ex' : List Nat} (h : WroteWords s t l ex)
    (k : WroteWords t u l' ex') (hw : s.mem.wf = true → t.mem.wf = true) (hp : t.platform = s.platform)
    (hd : ∀ p ∈ l, ∀ q ∈ l', p.1 + 2 ≤ q.1 ∨ q.1 + 2 ≤ p.1) : WroteWords s u (l ++ l') (ex ++ ex') := by
  refine ⟨fun b hb hl => ?_, fun w he p hm h0 h1 => ?_⟩
  · simp only [List.mem_append, not_or] at hb
    rw [k.1 b hb.2 fun q hq => hl q (List.mem_append_right _ hq), h.1 b hb.1 fun q hq => hl q (List.mem_append_left _ hq)]
  · rcases List.mem_append.mp hm with hm | hm
    · have e : t.word p.1 = p.2 :=
        h.2 w (fun q hq x hx => he q (List.mem_append_left _ hq) x (List.mem_append_left _ hx)) p hm h0 h1
      rw [← e]
      have f : ∀ b, p.1 ≤ b → b < p.1 + 2 → u.byte b = t.byte b := by
        intro b h1 h2
        refine k.1 b (fun hb => ?_) fun q hq => ?_
        · have := he p (List.mem_append_left _ hm) b (List.mem_append_right _ hb)
          omega
        · have := hd p hm q hq
          omega
      rw [State.word_eq, State.word_eq, f _ (by omega) (by omega), f _ (by omega) (by omega)]
    · exact k.2 (hw w) (fun q hq x hx => he q (List.mem_append_right _ hq) x (List.mem_append_right _ hx)) p hm
        (by rw [State.writableAt_congr hp]; exact h0) (by rw [State.writableAt_congr hp]; exact h1)

end Sys2Proof.Machine
end

