-- ==== Sys2Proof/Laws/Ops.lean ====
section
/-! SUPPORT. What each shared operation does when it succeeds, said once. -/

namespace Sys2Proof.Machine

/-! ### Computations that can end -/

@[simp] theorem require_ok_iff (b : Bool) (e : Stop) (u : Unit) : require b e = .ok u ↔ b = true := by
  cases b <;> simp [require]

@[simp] theorem require_true (e : Stop) : require true e = .ok () := rfl

@[simp] theorem require_false (e : Stop) : require false e = .error e := rfl

@[simp] theorem Try.bind_ok {α β : Type} (a : α) (f : α → Try β) : (Except.ok a >>= f : Try β) = f a := rfl

@[simp] theorem Try.bind_error {α β : Type} (e : Stop) (f : α → Try β) : (Except.error e >>= f : Try β) = .error e := rfl

/-- A computation that succeeds did so step by step. -/
theorem Try.bind_eq_ok {α β : Type} {x : Try α} {f : α → Try β} {b : β} :
    (x >>= f) = .ok b ↔ ∃ a, x = .ok a ∧ f a = .ok b := by
  cases x <;> simp [Except.bind, bind]

@[simp] theorem Try.pure_eq_ok {α : Type} (a b : α) : (pure a : Try α) = .ok b ↔ b = a := by
  simp [pure, Except.pure, eq_comm]

@[simp] theorem complete_ok (s t : State) : complete s (.ok t) = .next t.finish := rfl

@[simp] theorem complete_error (s : State) (e : Stop) : complete s (.error e) = endWith s e := rfl

@[simp] theorem endWith_trap (s : State) (x : Exc) (ec : Option Word) : endWith s (.trap x ec) = takeException s x ec := rfl

@[simp] theorem endWith_trapIn (s t : State) (x : Exc) (ec : Option Word) :
    endWith s (.trapIn t x ec) = takeException t x ec := rfl

@[simp] theorem endWith_refuse (s : State) (r : Refusal) : endWith s (.refuse r) = .refused r := rfl

/-- An instruction that ends in a next state ran to its end, or took an exception in the state before it or in the state its
end carries. -/
theorem complete_next {s t : State} {c : Try State} (h : complete s c = .next t) :
    (∃ u, c = .ok u ∧ t = u.finish) ∨ (∃ x ec, c = .error (.trap x ec) ∧ takeException s x ec = .next t) ∨
      ∃ u x ec, c = .error (.trapIn u x ec) ∧ takeException u x ec = .next t := by
  rcases c with e | u
  · rcases e with ⟨x, ec⟩ | ⟨u, x, ec⟩ | r
    · exact .inr (.inl ⟨x, ec, rfl, h⟩)
    · exact .inr (.inr ⟨u, x, ec, rfl, h⟩)
    · simp at h
  · simp only [complete_ok, Host.Outcome.next.injEq] at h
    exact .inl ⟨u, rfl, h.symm⟩

/-- Taking an exception that ends in a next state entered its handler. -/
theorem takeException_next {s t : State} {x : Exc} {ec : Option Word} :
    takeException s x ec = .next t ↔ ∃ u, deliver s x ec = .ok u ∧ t = u.finish := by
  unfold takeException
  split
  · rename_i u h
    constructor
    · intro e
      simp only [Host.Outcome.next.injEq] at e
      exact ⟨u, h, e.symm⟩
    · rintro ⟨u', h', rfl⟩
      rw [h] at h'
      cases h'
      rfl
  all_goals
    rename_i h
    constructor
    · intro e
      cases e
    · rintro ⟨u', h', -⟩
      rw [h] at h'
      cases h'

theorem entering_ok {c : Try State} {u : State} : entering c = .ok u ↔ c = .ok u := by
  rcases c with (_ | _ | _) | _ <;> simp [entering]

theorem notRestartable_ok {α : Type} {s : State} {c : Try α} {a : α} : notRestartable s c = .ok a ↔ c = .ok a := by
  rcases c with (_ | _ | _) | _ <;> simp [notRestartable]

/-! ### The checked address -/

theorem requirePhysical_ok {a n : Nat} {u : Unit} : requirePhysical a n = .ok u ↔ a + n ≤ physicalSize := by
  simp [requirePhysical]

/-- When `lin` answers an address: the entry is valid and permits the access, the access is inside the limit, and the address
is the sum of base and offset, inside the physical space. -/
theorem lin_ok {s : State} {r : SegReg} {off n : Nat} {k : Kind} {a : Nat} :
    lin s r off n k = .ok a ↔
      (s.seg r).cache.valid = true ∧
      (k.isWrite = true → (s.seg r).cache.code = false ∧ (s.seg r).cache.writable = true) ∧
      (k.isRead = true → (s.seg r).cache.code = true → (s.seg r).cache.readable = true) ∧
      (s.seg r).cache.inLimit off n = true ∧
      a = (s.seg r).cache.base.toNat + off ∧ a + n ≤ physicalSize := by
  unfold lin
  dsimp only
  split
  · simp_all
  split
  · rename_i h
    simp only [Bool.and_eq_true, Bool.or_eq_true, Bool.not_eq_true'] at h
    constructor
    · intro e
      cases e
    · rintro ⟨-, h2, -⟩
      have := h2 h.2
      simp_all
  split
  · rename_i h
    simp only [Bool.and_eq_true, Bool.not_eq_true'] at h
    constructor
    · intro e
      cases e
    · rintro ⟨-, -, h3, -⟩
      have := h3 h.2 h.1.1
      simp_all
  split
  · simp_all
  rename_i h1 h2 h3 h4
  simp only [Try.bind_eq_ok, requirePhysical_ok, Try.pure_eq_ok, exists_const]
  constructor
  · rintro ⟨h5, rfl⟩
    refine ⟨by simpa using h1, fun hw => ?_, fun hk hc => ?_, by simpa using h4, rfl, h5⟩
    · simp only [hw, Bool.and_true, Bool.or_eq_true, Bool.not_eq_true', not_or] at h2
      exact ⟨by simpa using h2.1, by simpa using h2.2⟩
    · simp only [hk, hc, Bool.and_true, Bool.true_and, Bool.not_eq_true'] at h3
      simpa using h3
  · rintro ⟨-, -, -, -, rfl, h5⟩
    exact ⟨h5, rfl⟩

theorem lin_address {s : State} {r : SegReg} {off n : Nat} {k : Kind} {a : Nat} (h : lin s r off n k = .ok a) :
    a = (s.seg r).cache.base.toNat + off ∧ a + n ≤ physicalSize := (lin_ok.mp h).2.2.2.2

/-- An access inside the limit does not run off offset FFFFH. -/
theorem SegCache.inLimit_bound {c : SegCache} {off n : Nat} (h : c.inLimit off n = true) : off + n ≤ 0x10000 := by
  have := c.limit.isLt
  unfold SegCache.inLimit at h
  split at h
  · simp only [Bool.and_eq_true, decide_eq_true_eq] at h
    omega
  · simp only [decide_eq_true_eq] at h
    omega

theorem lin_bound {s : State} {r : SegReg} {off n : Nat} {k : Kind} {a : Nat} (h : lin s r off n k = .ok a) :
    off + n ≤ 0x10000 := SegCache.inLimit_bound (lin_ok.mp h).2.2.2.1

/-- `lin` looks at the cache entry and, for the name of a fault, at the mode. -/
theorem lin_congr {s t : State} {r : SegReg} (off n : Nat) (k : Kind) (hc : (t.seg r).cache = (s.seg r).cache)
    (hm : t.prot = s.prot) : lin t r off n k = lin s r off n k := by
  simp only [lin, limitFault, hc, hm]

/-! ### The stack -/

theorem stackWord_ok {s : State} {off v : Word} :
    stackWord s off = .ok v ↔ ∃ a, lin s .ss off.toNat 2 .read = .ok a ∧ v = s.word a := by
  simp only [stackWord, Try.bind_eq_ok, Try.pure_eq_ok]

theorem frameWord_ok {s : State} {k : Nat} {v : Word} :
    frameWord s k = .ok v ↔ ∃ a, lin s .ss (s.regs.sp.toNat + k) 2 .read = .ok a ∧ v = s.word a := by
  simp only [frameWord, Try.bind_eq_ok, Try.pure_eq_ok]

/-- A push stores the word below SP and decrements SP by 2. -/
theorem push_ok {s t : State} {v : Word} :
    push s v = .ok t ↔
      ∃ a, stackAddress s (s.regs.sp - 2#16) = .ok a ∧ t = (s.setWord a v).setSp (s.regs.sp - 2#16) := by
  simp only [push, stackAddress, Try.bind_eq_ok, Try.pure_eq_ok]

theorem stackAddress_congr {s t : State} (off : Word) (hc : t.ss.cache = s.ss.cache) (hm : t.prot = s.prot) :
    stackAddress t off = stackAddress s off := lin_congr _ _ _ hc hm

/-- A push in a state with the stack segment of `s`: where it stores is what `s` says of the offset. -/
theorem push_at {s t : State} {x : Word} {a : Nat} (v : Word) (hc : t.ss.cache = s.ss.cache) (hm : t.prot = s.prot)
    (hx : t.regs.sp = x) (h : stackAddress s (x - 2#16) = .ok a) :
    push t v = .ok ((t.setWord a v).setSp (x - 2#16)) := by
  rw [push_ok]
  exact ⟨a, by rw [hx, stackAddress_congr _ hc hm, h], by rw [hx]⟩

/-- Two words of one stack at offsets an even number of bytes apart do not overlap. -/
theorem stackAddress_disjoint {s : State} {x y : Word} {a b : Nat} (ha : stackAddress s x = .ok a)
    (hb : stackAddress s y = .ok b) (h : x.toNat % 2 = y.toNat % 2) (hne : x ≠ y) : a + 2 ≤ b ∨ b + 2 ≤ a := by
  have ea := (lin_address ha).1
  have eb := (lin_address hb).1
  have : x.toNat ≠ y.toNat := fun e => hne (BitVec.eq_of_toNat_eq e)
  omega

/-- Where an access through an invalid entry ends (20_memory.md R78 step 1, R83). -/
theorem lin_invalid {s : State} {r : SegReg} (off n : Nat) (k : Kind) (h : (s.seg r).cache.valid = false) :
    lin s r off n k = .error (if r = .ss then .refuse .stackEntryInvalid else protectionFault) := by
  simp [lin, h]

/-! ### Descriptors and gates -/

/-- What a descriptor read answers, whatever it would end with: the descriptor at the selector's entry, inside the table and
the physical space. -/
theorem readDescriptor_ok {s : State} {p : Purpose} {sel : Word} {e : Stop} {d : Descriptor} :
    readDescriptor s p sel e = .ok d ↔
      (if isLocal s.platform.format sel then
        s.ldtr.valid = true ∧ s.entryOffset sel + 7 ≤ s.ldtr.limit.toNat ∧
        s.ldtr.base.toNat + s.entryOffset sel + 8 ≤ physicalSize ∧
        d = s.descriptorAt p (s.ldtr.base.toNat + s.entryOffset sel)
      else
        s.entryOffset sel + 7 ≤ s.gdtr.limit.toNat ∧
        s.gdtr.base.toNat + s.entryOffset sel + 8 ≤ physicalSize ∧
        d = s.descriptorAt p (s.gdtr.base.toNat + s.entryOffset sel)) := by
  unfold readDescriptor
  split <;>
    simp only [Try.bind_eq_ok, requirePhysical_ok, Try.pure_eq_ok, require_ok_iff, Bool.and_eq_true, decide_eq_true_eq,
      exists_const, and_assoc]

/-- The access rights byte of a descriptor that was read lies inside the physical space. -/
theorem readDescriptor_rightsAt {s : State} {p : Purpose} {sel : Word} {e : Stop} {d : Descriptor}
    (h : readDescriptor s p sel e = .ok d) : d.rightsAt < physicalSize := by
  have hf := s.platform.format.rights.isLt
  rw [readDescriptor_ok] at h
  split at h
  · obtain ⟨-, -, h, rfl⟩ := h
    simp only [State.descriptorAt]
    omega
  · obtain ⟨-, h, rfl⟩ := h
    simp only [State.descriptorAt]
    omega

/-- Whether a descriptor is read does not depend on what the read would end with. -/
theorem readDescriptor_any {s : State} {p : Purpose} {sel : Word} {e : Stop} (e' : Stop) {d : Descriptor}
    (h : readDescriptor s p sel e = .ok d) : readDescriptor s p sel e' = .ok d := by
  rw [readDescriptor_ok] at h ⊢
  exact h

/-- What a gate read answers, whatever it would end with. -/
theorem readGate_ok {s : State} {p : Purpose} {n : Nat} {e : Stop} {g : Gate} :
    readGate s p n e = .ok g ↔
      8 * n + 7 ≤ s.idtr.limit.toNat ∧ s.idtr.base.toNat + 8 * n + 8 ≤ physicalSize ∧
      g = s.gateAt p (s.idtr.base.toNat + 8 * n) ∧ g.type.isSome = true := by
  unfold readGate
  simp only [Try.bind_eq_ok, requirePhysical_ok, Try.pure_eq_ok, require_ok_iff, decide_eq_true_eq, exists_const]
  constructor
  · rintro ⟨h1, h2, h3, rfl⟩
    exact ⟨h1, h2, rfl, h3⟩
  · rintro ⟨h1, h2, rfl, h3⟩
    exact ⟨h1, h2, h3, rfl⟩

/-- Whether a gate is read does not depend on what the read would end with. -/
theorem readGate_any {s : State} {p : Purpose} {n : Nat} {e : Stop} (e' : Stop) {g : Gate} (h : readGate s p n e = .ok g) :
    readGate s p n e' = .ok g := by
  rw [readGate_ok] at h ⊢
  exact h

theorem physicalWord_ok {s : State} {p : Purpose} {a : Nat} {v : Word} :
    physicalWord s p a = .ok v ↔ a + 2 ≤ physicalSize ∧ v = s.wordFor p a := by
  simp only [physicalWord, Try.bind_eq_ok, requirePhysical_ok, Try.pure_eq_ok, exists_const]

/-! ### Entering a handler -/

/-- The real-mode entry: three pushes in order, and then the table's entry. -/
theorem enterReal_ok {s t : State} {p : Purpose} {n : Nat} {ret : Word} :
    enterReal s p n ret = .ok t ↔
      4 * n + 3 ≤ s.idtr.limit.toNat ∧ s.idtr.base.toNat + 4 * n + 4 ≤ physicalSize ∧
      ∃ s1 s2 s3, push s s.flags.toWord = .ok s1 ∧ push s1 s.cs.val = .ok s2 ∧ push s2 ret = .ok s3 ∧
        t = State.jump { s3 with
          flags := { s3.flags with ie := false, tf := false }
          cs := { val := s.wordFor p (s.idtr.base.toNat + 4 * n + 2)
                  cache := { s3.cs.cache with
                    base := (s.wordFor p (s.idtr.base.toNat + 4 * n + 2)).setWidth 24 <<< 4 } } }
          (s.wordFor p (s.idtr.base.toNat + 4 * n)) := by
  unfold enterReal
  simp only [Try.bind_eq_ok, requirePhysical_ok, Try.pure_eq_ok, require_ok_iff, decide_eq_true_eq, exists_const]
  constructor
  · rintro ⟨h1, h2, s1, p1, s2, p2, s3, p3, rfl⟩
    exact ⟨h1, h2, s1, s2, s3, p1, p2, p3, rfl⟩
  · rintro ⟨h1, h2, s1, s2, s3, p1, p2, p3, rfl⟩
    exact ⟨h1, h2, s1, p1, s2, p2, s3, p3, rfl⟩

/-- The change to the stack of an inner level. -/
theorem switchStack_ok {s t : State} {level : BitVec 2} :
    switchStack s level = .ok t ↔
      ∃ sp ss d s2, physicalWord s .innerPointer (s.innerSpAt level) = .ok sp ∧
        physicalWord s .innerPointer (s.innerSsAt level) = .ok ss ∧
        readDescriptor s .innerStack ss (.refuse .innerStackSegment) = .ok d ∧
        d.present = true ∧ d.isWritableData = true ∧ d.dpl = level ∧ rpl ss = level ∧
        push ((s.loadFrom .ss ss d level).setSp sp) s.ss.val = .ok s2 ∧ push s2 s.regs.sp = .ok t := by
  unfold switchStack
  simp only [Try.bind_eq_ok, require_ok_iff, Bool.and_eq_true, decide_eq_true_eq, exists_const]
  constructor
  · rintro ⟨sp, h1, ss, h2, d, h3, ⟨⟨⟨h4, h5⟩, h6⟩, h7⟩, s2, p1, p2⟩
    exact ⟨sp, ss, d, s2, h1, h2, h3, h4, h5, h6, h7, p1, p2⟩
  · rintro ⟨sp, ss, d, s2, h1, h2, h3, h4, h5, h6, h7, p1, p2⟩
    exact ⟨sp, h1, ss, h2, d, h3, ⟨⟨⟨h4, h5⟩, h6⟩, h7⟩, s2, p1, p2⟩

/-- Whether a handler's segment is entered at a more privileged level. -/
def entersInner (s : State) (d : Descriptor) : Bool := !d.isConforming && decide (d.dpl < s.cpl)

theorem entersInner_def (s : State) (d : Descriptor) :
    (!d.isConforming && decide (d.dpl < s.cpl)) = entersInner s d := rfl

/-- The level a handler runs at. -/
def handlerLevel (s : State) (d : Descriptor) : BitVec 2 := if entersInner s d then d.dpl else s.cpl

/-- Entry through a gate: the handler's segment, the stack, the pushes in order, and the jump. -/
theorem enterGate_ok {s t : State} {g : Gate} {ret : Word} {ec : Option Word} :
    enterGate s g ret ec = .ok t ↔
      g.type ≠ some .task ∧ g.present = true ∧
      ∃ d s1 s2 s3 s4 s5, readDescriptor s .handler g.selector (.refuse .handlerSegment) = .ok d ∧ d.present = true ∧
        d.isCode = true ∧ d.dpl ≤ s.cpl ∧
        (if entersInner s d then switchStack s (handlerLevel s d) = .ok s1 else s1 = s) ∧
        push s1 s.flags.toWord = .ok s2 ∧ push s2 s.cs.val = .ok s3 ∧ push s3 ret = .ok s4 ∧
        (match ec with | some c => push s4 c = .ok s5 | none => s5 = s4) ∧
        g.offset ≤ d.limit ∧
        t = State.jump { s5.loadFrom .cs ((g.selector &&& 0xFFFC#16) ||| (handlerLevel s d).setWidth 16) d
            (handlerLevel s d) with
          flags := { s5.flags with tf := false, nt := false, ie := s5.flags.ie && !decide (g.type = some .interrupt) } } g.offset := by
  unfold enterGate
  simp only [entersInner_def]
  simp only [Try.bind_eq_ok, require_ok_iff, Bool.and_eq_true, decide_eq_true_eq, exists_const, Bool.not_eq_true',
    decide_eq_false_iff_not, and_assoc]
  refine and_congr_right fun _ => and_congr_right fun _ => ?_
  constructor
  · rintro ⟨d, h3, h4, h5, h6, h⟩
    rcases Bool.dichotomy (entersInner s d) with hi | hi <;>
      cases ec <;>
        simp only [hi, Bool.false_eq_true, if_false, if_true, Try.bind_eq_ok, Try.pure_eq_ok, require_ok_iff,
          decide_eq_true_eq, exists_const, exists_eq_left] at h
    · obtain ⟨s2, p2, s3, p3, s4, p4, h7, rfl⟩ := h
      exact ⟨d, s, s2, s3, s4, s4, h3, h4, h5, h6, by simp [hi], p2, p3, p4, rfl, h7, by simp [handlerLevel, hi]⟩
    · obtain ⟨s2, p2, s3, p3, s4, p4, s5, p5, h7, rfl⟩ := h
      exact ⟨d, s, s2, s3, s4, s5, h3, h4, h5, h6, by simp [hi], p2, p3, p4, p5, h7, by simp [handlerLevel, hi]⟩
    · obtain ⟨s1, p1, s2, p2, s3, p3, s4, p4, h7, rfl⟩ := h
      exact ⟨d, s1, s2, s3, s4, s4, h3, h4, h5, h6, by simp [hi, handlerLevel, p1], p2, p3, p4, rfl, h7,
        by simp [handlerLevel, hi]⟩
    · obtain ⟨s1, p1, s2, p2, s3, p3, s4, p4, s5, p5, h7, rfl⟩ := h
      exact ⟨d, s1, s2, s3, s4, s5, h3, h4, h5, h6, by simp [hi, handlerLevel, p1], p2, p3, p4, p5, h7,
        by simp [handlerLevel, hi]⟩
  · rintro ⟨d, s1, s2, s3, s4, s5, h3, h4, h5, h6, p1, p2, p3, p4, p5, h7, rfl⟩
    refine ⟨d, h3, h4, h5, h6, ?_⟩
    rcases Bool.dichotomy (entersInner s d) with hi | hi <;>
      cases ec <;>
        simp only [hi, Bool.false_eq_true, if_false, if_true, Try.bind_eq_ok, Try.pure_eq_ok, require_ok_iff,
          decide_eq_true_eq, exists_const, exists_eq_left, handlerLevel] at p1 p5 ⊢
    · subst p1 p5
      exact ⟨s2, p2, s3, p3, _, p4, h7, by simp⟩
    · subst p1
      exact ⟨s2, p2, s3, p3, s4, p4, s5, p5, h7, by simp⟩
    · subst p5
      exact ⟨s1, p1, s2, p2, s3, p3, _, p4, h7, by simp⟩
    · exact ⟨s1, p1, s2, p2, s3, p3, s4, p4, s5, p5, h7, by simp⟩

/-- Delivering an exception: through the protected IDT or the real-mode table. -/
theorem deliver_ok {s t : State} {x : Exc} {ec : Option Word} :
    deliver s x ec = .ok t ↔
      (s.prot = true ∧ ∃ g, readGate s .exceptionVector x.vector (.refuse .faultDuringEntry) = .ok g ∧
        enterGate s g s.ip ec = .ok t) ∨
      (s.prot = false ∧ enterReal s .exceptionVector x.vector s.ip = .ok t) := by
  unfold deliver
  rw [entering_ok]
  cases h : s.prot <;> simp [Try.bind_eq_ok]

/-- A software interrupt that enters its handler. -/
theorem softwareInterrupt_ok {s t : State} {n : Nat} :
    softwareInterrupt s n = .ok t ↔
      (s.prot = true ∧ ∃ g, readGate s .interruptVector n (s.vectorFault n false) = .ok g ∧
        s.cpl ≤ g.dpl ∧ enterGate s g (BitVec.ofNat 16 s.ip1) none = .ok t) ∨
      (s.prot = false ∧ enterReal s .interruptVector n (BitVec.ofNat 16 s.ip1) = .ok t) := by
  unfold softwareInterrupt
  cases h : s.prot <;> simp [Try.bind_eq_ok, entering_ok]

/-- An external interrupt that enters its handler. -/
theorem externalInterrupt_ok {s t : State} {n : Nat} :
    externalInterrupt s n = .ok t ↔
      (s.prot = true ∧ ∃ g, readGate s .interruptVector n (s.vectorFault n true) = .ok g ∧
        enterGate s g s.ip none = .ok t) ∨
      (s.prot = false ∧ enterReal s .interruptVector n s.ip = .ok t) := by
  unfold externalInterrupt
  cases h : s.prot <;> simp [Try.bind_eq_ok, entering_ok]

/-! ### Loading a segment register -/

theorem stackSegmentChecks_ok {d : Descriptor} {v : Word} {level : BitVec 2} {u : Unit} :
    stackSegmentChecks d v level = .ok u ↔
      rpl v = level ∧ d.isWritableData = true ∧ d.dpl = level ∧ d.present = true := by
  simp only [stackSegmentChecks, Try.bind_eq_ok, require_ok_iff, Bool.and_eq_true, decide_eq_true_eq, exists_const,
    and_assoc]

theorem dataSegmentChecks_ok {d : Descriptor} {v : Word} {cpl : BitVec 2} {u : Unit} :
    dataSegmentChecks d v cpl = .ok u ↔
      cpl ≤ d.dpl ∧ (d.isData = true ∨ d.isReadableCode = true) ∧
      (d.isConforming = true ∨ (cpl ≤ d.dpl ∧ rpl v ≤ d.dpl)) ∧ d.present = true := by
  simp only [dataSegmentChecks, Try.bind_eq_ok, require_ok_iff, Bool.or_eq_true, Bool.not_eq_true', Bool.or_eq_false_iff,
    decide_eq_false_iff_not, BitVec.not_lt, exists_const]

theorem loadStackSegment_ok {s t : State} {p : Purpose} {v : Word} {level : BitVec 2} :
    loadStackSegment s p v level = .ok t ↔
      isNullSelector v = false ∧ ∃ d, readDescriptor s p v (.trap .generalProtection (some (selectorCode v))) = .ok d ∧
        rpl v = level ∧ d.isWritableData = true ∧ d.dpl = level ∧ d.present = true ∧ t = s.loadFrom .ss v d d.dpl := by
  simp only [loadStackSegment, Try.bind_eq_ok, require_ok_iff, Bool.not_eq_true', stackSegmentChecks_ok, Try.pure_eq_ok,
    exists_const, and_assoc]

/-- What a load of a segment register does when it raises nothing. -/
theorem loadSeg_ok {s t : State} {r : SegReg} {v : Word} (h : loadSeg s r v = .ok t) :
    (s.prot = false ∧ t = loadSegReal s r v) ∨
    (s.prot = true ∧ r ≠ .ss ∧ isNullSelector v = true ∧
      t = s.setSeg r { val := v, cache := { (s.seg r).cache with valid := false } }) ∨
    (s.prot = true ∧ isNullSelector v = false ∧ ∃ d,
      readDescriptor s .loadedSegment v (.trap .generalProtection (some (selectorCode v))) = .ok d ∧ d.present = true ∧
      t = s.loadFrom r v d d.dpl) := by
  unfold loadSeg at h
  split at h
  · rename_i hp
    split at h
    · rename_i hr
      rw [loadStackSegment_ok] at h
      obtain ⟨hn, d, hd, -, -, -, hP, rfl⟩ := h
      exact .inr (.inr ⟨hp, hn, d, hd, hP, by rw [hr]⟩)
    · rename_i hr
      unfold loadDataSegment at h
      split at h
      · rename_i hn
        cases h
        exact .inr (.inl ⟨hp, hr, hn, rfl⟩)
      · rename_i hn
        simp only [Try.bind_eq_ok, dataSegmentChecks_ok, Try.pure_eq_ok, exists_const] at h
        obtain ⟨d, hd, ⟨-, -, -, hP⟩, rfl⟩ := h
        exact .inr (.inr ⟨hp, by simpa using hn, d, hd, hP, rfl⟩)
  · rename_i hp
    cases h
    exact .inl ⟨by simpa using hp, rfl⟩

/-- The base of a paragraph: 16 times its number (40_segment_register_access.md R141). -/
theorem paragraph_base (v : Word) : v.setWidth 24 <<< 4 = BitVec.ofNat 24 (v.toNat * 16) := by
  refine BitVec.eq_of_toNat_eq ?_
  have := v.isLt
  simp only [BitVec.toNat_shiftLeft, BitVec.toNat_setWidth, BitVec.toNat_ofNat, Nat.shiftLeft_eq]
  omega

/-! ### Operands -/

theorem readRm_mem {ρ : Type} {w : Nat} {z : OpSize ρ w} {s : State} {m : MemOperand} {v : BitVec w} :
    z.readRm s (.mem m) = .ok v ↔ ∃ a, operandAddress s m z.bytes .read = .ok a ∧ v = z.load s a := by
  simp only [OpSize.readRm, Try.bind_eq_ok, Try.pure_eq_ok]

theorem writeRm_mem {ρ : Type} {w : Nat} {z : OpSize ρ w} {s t : State} {m : MemOperand} {v : BitVec w} :
    z.writeRm s (.mem m) v = .ok t ↔ ∃ a, operandAddress s m z.bytes .write = .ok a ∧ t = z.store s a v := by
  simp only [OpSize.writeRm, Try.bind_eq_ok, Try.pure_eq_ok]

@[simp] theorem lowByte_wordOf (lo hi : Byte) : lowByte (wordOf lo hi) = lo := by
  refine BitVec.eq_of_toNat_eq ?_
  have := hi.isLt
  have := lo.isLt
  simp only [lowByte, wordOf, BitVec.toNat_append, BitVec.extractLsb'_toNat, Nat.shiftRight_eq_div_pow]
  rw [← Nat.shiftLeft_add_eq_or_of_lt lo.isLt, Nat.shiftLeft_eq]
  omega

@[simp] theorem highByte_wordOf (lo hi : Byte) : highByte (wordOf lo hi) = hi := by
  refine BitVec.eq_of_toNat_eq ?_
  have := hi.isLt
  have := lo.isLt
  simp only [highByte, wordOf, BitVec.toNat_append, BitVec.extractLsb'_toNat, Nat.shiftRight_eq_div_pow]
  rw [← Nat.shiftLeft_add_eq_or_of_lt lo.isLt, Nat.shiftLeft_eq]
  omega

theorem Regs.get16_set16 (r : Regs) (i j : Reg16) (v : Word) :
    (r.set16 i v).get16 j = if j = i then v else r.get16 j := by
  cases i <;> cases j <;> rfl

theorem Regs.get8_set8 (r : Regs) (i j : Reg8) (v : Byte) : (r.set8 i v).get8 j = if j = i then v else r.get8 j := by
  cases i <;> cases j <;> simp [Regs.set8, Regs.get8]

end Sys2Proof.Machine
end

