-- ==== Sys2Proof/Laws/Entry.lean ====
section
/-! SUPPORT. Entering a handler, given the addresses of the stack words: the state that results. -/

namespace Sys2Proof.Machine

/-- Changing SP commutes with storing a byte. -/
theorem State.setSp_setByte (s : State) (a : Nat) (v : Byte) (w : Word) :
    (s.setSp w).setByte a v = (s.setByte a v).setSp w := by
  unfold State.setByte
  rw [State.writableAt_congr (show (s.setSp w).platform = s.platform from rfl)]
  split <;> rfl

/-- Changing SP commutes with storing a word. -/
theorem State.setSp_setWord (s : State) (a : Nat) (v w : Word) : (s.setSp w).setWord a v = (s.setWord a v).setSp w := by
  unfold State.setWord
  rw [State.setSp_setByte, State.setSp_setByte]

@[simp] theorem State.setSp_setSp (s : State) (v w : Word) : (s.setSp v).setSp w = s.setSp w := rfl

/-- Two different even distances below one SP address words that do not overlap. -/
theorem stack_words_disjoint {s : State} {sp i j : Word} {a b : Nat} (ha : stackAddress s (sp - i) = .ok a)
    (hb : stackAddress s (sp - j) = .ok b) (hi : i.toNat % 2 = 0) (hj : j.toNat % 2 = 0) (h : i ≠ j) :
    a + 2 ≤ b ∨ b + 2 ≤ a := by
  refine stackAddress_disjoint ha hb ?_ fun e => h ?_
  · have := i.isLt
    have := j.isLt
    have := sp.isLt
    simp only [BitVec.toNat_sub]
    omega
  · bv_omega

/-- A push onto the stack of `s` when SP is `i` below where it was and words have been stored. -/
theorem push_below {s t : State} {sp i j : Word} {a : Nat} (v : Word) (hc : t.ss.cache = s.ss.cache)
    (hm : t.prot = s.prot) (hj : i + 2#16 = j) (h : stackAddress s (sp - j) = .ok a) :
    push (t.setSp (sp - i)) v = .ok ((t.setWord a v).setSp (sp - j)) := by
  have e : sp - i - 2#16 = sp - j := by
    subst hj
    bv_omega
  have p := push_at (t := t.setSp (sp - i)) (x := sp - i) v (by simpa using hc) (by simpa [State.prot] using hm) rfl (e ▸ h)
  rw [e, State.setSp_setWord, State.setSp_setSp] at p
  exact p

/-- Three pushes: the words below SP, in order. -/
theorem push_three {s : State} {a1 a2 a3 : Nat} (v1 v2 v3 : Word) (h1 : stackAddress s (s.regs.sp - 2#16) = .ok a1)
    (h2 : stackAddress s (s.regs.sp - 4#16) = .ok a2) (h3 : stackAddress s (s.regs.sp - 6#16) = .ok a3) :
    ∃ s1 s2, push s v1 = .ok s1 ∧ push s1 v2 = .ok s2 ∧
      push s2 v3 = .ok ((((s.setWord a1 v1).setWord a2 v2).setWord a3 v3).setSp (s.regs.sp - 6#16)) :=
  ⟨_, _, push_at (t := s) v1 rfl rfl rfl h1,
    push_below (t := s.setWord a1 v1) v2 (by simp) (by simp [State.prot]) (by decide) h2,
    push_below (t := (s.setWord a1 v1).setWord a2 v2) v3 (by simp) (by simp [State.prot]) (by decide) h3⟩

/-- The three words of a frame are stored where they do not overlap. -/
theorem wrote_three {s : State} {sp : Word} {a1 a2 a3 : Nat} (v1 v2 v3 : Word)
    (h1 : stackAddress s (sp - 2#16) = .ok a1) (h2 : stackAddress s (sp - 4#16) = .ok a2)
    (h3 : stackAddress s (sp - 6#16) = .ok a3) :
    WroteWords s (((s.setWord a1 v1).setWord a2 v2).setWord a3 v3) [(a1, v1), (a2, v2), (a3, v3)] [] := by
  have d12 := stack_words_disjoint h1 h2 (by decide) (by decide) (by decide)
  have d13 := stack_words_disjoint h1 h3 (by decide) (by decide) (by decide)
  have d23 := stack_words_disjoint h2 h3 (by decide) (by decide) (by decide)
  refine ((WroteWords.setWord s a1 v1).trans (.setWord _ a2 v2) (State.setWord_mem_wf _ _) (by simp)
    (by simpa using d12)).trans (.setWord _ a3 v3) (fun w => State.setWord_mem_wf _ _ (State.setWord_mem_wf _ _ w))
    (by simp) ?_
  simp only [List.cons_append, List.nil_append, List.mem_cons, List.not_mem_nil, or_false, forall_eq_or_imp, forall_eq]
  exact ⟨d13, d23⟩

/-- Entry through the real-mode table. -/
theorem enterReal_at {s : State} {p : Purpose} {n : Nat} {ret : Word} {a1 a2 a3 : Nat} (hl : 4 * n + 3 ≤ s.idtr.limit.toNat)
    (hb : s.idtr.base.toNat + 4 * n + 4 ≤ physicalSize) (h1 : stackAddress s (s.regs.sp - 2#16) = .ok a1)
    (h2 : stackAddress s (s.regs.sp - 4#16) = .ok a2) (h3 : stackAddress s (s.regs.sp - 6#16) = .ok a3) :
    enterReal s p n ret = .ok
      { ((s.setWord a1 s.flags.toWord).setWord a2 s.cs.val).setWord a3 ret with
        regs := { s.regs with sp := s.regs.sp - 6#16 }
        flags := { s.flags with ie := false, tf := false }
        cs := { val := s.wordFor p (s.idtr.base.toNat + 4 * n + 2)
                cache := s.cs.cache.atParagraph (s.wordFor p (s.idtr.base.toNat + 4 * n + 2)) }
        ip := s.wordFor p (s.idtr.base.toNat + 4 * n)
        ipPastEnd := false
        superseded := [] } := by
  rw [enterReal_ok]
  obtain ⟨s1, s2, p1, p2, p3⟩ := push_three s.flags.toWord s.cs.val ret h1 h2 h3
  refine ⟨hl, hb, s1, s2, _, p1, p2, p3, ?_⟩
  simp [State.jump, State.setSp, SegCache.atParagraph, paragraph_base]

/-- Entry through an interrupt or trap gate to a handler at the same level, without an error code. -/
theorem enterGate_same {s : State} {g : Gate} {d : Descriptor} {e : Stop} {ret : Word} {a1 a2 a3 : Nat}
    (ht : g.type ≠ some .task) (hg : g.present = true) (hd : readDescriptor s .handler g.selector e = .ok d) (hp : d.present = true)
    (hc : d.isCode = true) (hl : d.dpl ≤ s.cpl) (hi : entersInner s d = false) (ho : g.offset ≤ d.limit)
    (h1 : stackAddress s (s.regs.sp - 2#16) = .ok a1) (h2 : stackAddress s (s.regs.sp - 4#16) = .ok a2)
    (h3 : stackAddress s (s.regs.sp - 6#16) = .ok a3) :
    enterGate s g ret none = .ok (State.jump
      { ((((s.setWord a1 s.flags.toWord).setWord a2 s.cs.val).setWord a3 ret).setSp (s.regs.sp - 6#16)).loadFrom .cs
          ((g.selector &&& 0xFFFC#16) ||| s.cpl.setWidth 16) d s.cpl with
        flags := { s.flags with tf := false, nt := false, ie := s.flags.ie && !decide (g.type = some .interrupt) } } g.offset) := by
  rw [enterGate_ok]
  obtain ⟨s1, s2, p1, p2, p3⟩ := push_three s.flags.toWord s.cs.val ret h1 h2 h3
  refine ⟨ht, hg, d, s, s1, s2, _, _, readDescriptor_any _ hd, hp, hc, hl, by simp [hi], p1, p2, p3, rfl, ho, ?_⟩
  simp [handlerLevel, hi]

/-- Entry through an interrupt or trap gate to a handler at the same level, with an error code. -/
theorem enterGate_same_code {s : State} {g : Gate} {d : Descriptor} {e : Stop} {ret c : Word} {a1 a2 a3 a4 : Nat}
    (ht : g.type ≠ some .task) (hg : g.present = true) (hd : readDescriptor s .handler g.selector e = .ok d) (hp : d.present = true)
    (hc : d.isCode = true) (hl : d.dpl ≤ s.cpl) (hi : entersInner s d = false) (ho : g.offset ≤ d.limit)
    (h1 : stackAddress s (s.regs.sp - 2#16) = .ok a1) (h2 : stackAddress s (s.regs.sp - 4#16) = .ok a2)
    (h3 : stackAddress s (s.regs.sp - 6#16) = .ok a3) (h4 : stackAddress s (s.regs.sp - 8#16) = .ok a4) :
    enterGate s g ret (some c) = .ok (State.jump
      { (((((s.setWord a1 s.flags.toWord).setWord a2 s.cs.val).setWord a3 ret).setWord a4 c).setSp
            (s.regs.sp - 8#16)).loadFrom .cs ((g.selector &&& 0xFFFC#16) ||| s.cpl.setWidth 16) d s.cpl with
        flags := { s.flags with tf := false, nt := false, ie := s.flags.ie && !decide (g.type = some .interrupt) } } g.offset) := by
  rw [enterGate_ok]
  obtain ⟨s1, s2, p1, p2, p3⟩ := push_three s.flags.toWord s.cs.val ret h1 h2 h3
  have p4 := push_below (t := ((s.setWord a1 s.flags.toWord).setWord a2 s.cs.val).setWord a3 ret) c (by simp)
    (by simp [State.prot]) (show (6#16 + 2#16 : Word) = 8#16 by decide) h4
  refine ⟨ht, hg, d, s, s1, s2, _, _, readDescriptor_any _ hd, hp, hc, hl, by simp [hi], p1, p2, p3, p4, ho, ?_⟩
  simp [handlerLevel, hi]

/-- A handler's segment that is not entered at an inner level. -/
theorem entersInner_false {s : State} {d : Descriptor} (h : d.dpl = s.cpl ∨ (d.isConforming = true ∧ d.dpl ≤ s.cpl)) :
    entersInner s d = false := by
  rcases h with h | ⟨h, -⟩
  · simp [entersInner, h]
  · simp [entersInner, h]

/-- The change to an inner stack: SS and SP from the TSS, and the old SS and SP pushed. -/
theorem switchStack_at {s : State} {level : BitVec 2} {d : Descriptor} {e : Stop} {a1 a2 : Nat}
    (hb : s.innerSpAt level + 2 ≤ physicalSize) (hb' : s.innerSsAt level + 2 ≤ physicalSize)
    (hd : readDescriptor s .innerStack (s.wordFor .innerPointer (s.innerSsAt level)) e = .ok d) (hp : d.present = true)
    (hw : d.isWritableData = true) (hl : d.dpl = level) (hr : rpl (s.wordFor .innerPointer (s.innerSsAt level)) = level)
    (h1 : stackAddress (s.onInnerStack level d) (s.wordFor .innerPointer (s.innerSpAt level) - 2#16) = .ok a1)
    (h2 : stackAddress (s.onInnerStack level d) (s.wordFor .innerPointer (s.innerSpAt level) - 4#16) = .ok a2) :
    switchStack s level = .ok ((((s.loadFrom .ss (s.wordFor .innerPointer (s.innerSsAt level)) d level).setWord a1
      s.ss.val).setWord a2 s.regs.sp).setSp (s.wordFor .innerPointer (s.innerSpAt level) - 4#16)) := by
  rw [switchStack_ok]
  have hc : (s.loadFrom .ss (s.wordFor .innerPointer (s.innerSsAt level)) d level).ss.cache =
      SegCache.ofAccess d.base d.limit d.access := by
    subst hl
    rfl
  have p1 := push_below (t := s.loadFrom .ss (s.wordFor .innerPointer (s.innerSsAt level)) d level) (i := 0#16) s.ss.val
    (by rw [hc]; rfl) (by simp [State.prot, State.onInnerStack]) (by decide) h1
  rw [BitVec.sub_zero] at p1
  have p2 := push_below (t := (s.loadFrom .ss (s.wordFor .innerPointer (s.innerSsAt level)) d level).setWord a1 s.ss.val)
    (i := 2#16) s.regs.sp (by rw [State.setWord_ss, hc]; rfl) (by simp [State.prot, State.onInnerStack]) (by decide) h2
  exact ⟨_, _, d, _, physicalWord_ok.mpr ⟨hb, rfl⟩, physicalWord_ok.mpr ⟨hb', rfl⟩, readDescriptor_any _ hd, hp,
    hw, hl, hr, p1, p2⟩

end Sys2Proof.Machine
end

