-- ==== Sys2Proof/Laws/Instructions.lean ====
section
/-! SUPPORT. What the operations of the instruction families do when they succeed, said once. -/

namespace Sys2Proof.Machine

/-! ### Segment loads, loads and stores -/

theorem popSegment_ok {s t : State} {r : SegReg} :
    popSegment s r = .ok t ↔
      ∃ v u, stackWord s s.regs.sp = .ok v ∧ loadSeg s r v = .ok u ∧
        t = ((u.setSp (s.regs.sp + 2#16)).holdOff r).advance := by
  simp only [popSegment, Try.bind_eq_ok, Try.pure_eq_ok]
  exact ⟨fun ⟨v, hv, u, hu, e⟩ => ⟨v, u, hv, hu, e⟩, fun ⟨v, u, hv, hu, e⟩ => ⟨v, hv, u, hu, e⟩⟩

theorem loadFarPointer_ok {s t : State} {r : SegReg} {dst : Reg16} {src : MemOperand} :
    loadFarPointer s r dst src = .ok t ↔
      ∃ a b u, operandAddress s src 2 .read = .ok a ∧
        lin s (s.operandSegment src) (effectiveOffset s.regs src + 2#16).toNat 2 .read = .ok b ∧
        loadSeg s r (s.word b) = .ok u ∧ t = (size16.setReg u dst (s.word a)).advance := by
  simp only [loadFarPointer, Try.bind_eq_ok, Try.pure_eq_ok]
  exact ⟨fun ⟨a, ha, b, hb, u, hu, e⟩ => ⟨a, b, u, ha, hb, hu, e⟩, fun ⟨a, b, u, ha, hb, hu, e⟩ => ⟨a, ha, b, hb, u, hu, e⟩⟩

theorem loadRegister_ok {ρ : Type} {w : Nat} {z : OpSize ρ w} {s t : State} {dst : ρ} {src : Rm ρ} :
    loadRegister z s dst src = .ok t ↔ ∃ v, z.readRm s src = .ok v ∧ t = (z.setReg s dst v).advance := by
  simp only [loadRegister, Try.bind_eq_ok, Try.pure_eq_ok]

theorem storeRegister_ok {ρ : Type} {w : Nat} {z : OpSize ρ w} {s t : State} {dst : Rm ρ} {src : ρ} :
    storeRegister z s dst src = .ok t ↔ ∃ u, z.writeRm s dst (z.get s.regs src) = .ok u ∧ t = u.advance := by
  simp only [storeRegister, Try.bind_eq_ok, Try.pure_eq_ok]

/-! ### IOPL, ports, the 80287 -/

theorem ioplCheck_ok {s : State} {u : Unit} : ioplCheck s = .ok u ↔ s.ioplViolated = false := by
  cases h : s.prot <;> simp [ioplCheck, State.ioplViolated, h]

/-- The IOPL rule fails in one way only. -/
theorem ioplCheck_violated {s : State} (h : s.ioplViolated = true) : ioplCheck s = .error protectionFault := by
  unfold State.ioplViolated at h
  simp [ioplCheck, h]

theorem portCheck_ok {s : State} {port : Word} {n : Nat} {u : Unit} :
    portCheck s port n = .ok u ↔ s.ioplViolated = false ∧ meetsReserved port n = false := by
  simp [portCheck, Try.bind_eq_ok, ioplCheck_ok]

theorem meetsReserved_eq_false {port : Word} {n : Nat} :
    meetsReserved port n = false ↔ 0xFF < port.toNat ∨ port.toNat + n ≤ 0xF8 := by
  unfold meetsReserved
  simp only [Bool.and_eq_false_iff, decide_eq_false_iff_not]
  omega

theorem escapeAvailable_ok {s : State} {u : Unit} : escapeAvailable s = .ok u ↔ s.ts = false ∧ s.em = false := by
  simp [escapeAvailable]

/-- The numeric state that FNINIT and the RESET pin leave (44_numeric_coprocessor.md R232, 70_reset_and_hazards.md R332). -/
@[simp] theorem numericInitialised_top (s : State) (m : Mode) : (numericInitialised s m).top = 0#3 := by
  unfold numericInitialised Numeric.top
  dsimp only
  generalize Config.numericStatus s.freeIndex = w
  ext k hk
  have : k = 0 ∨ k = 1 ∨ k = 2 := by omega
  rcases this with rfl | rfl | rfl <;> simp

@[simp] theorem numericInitialised_masks (s : State) (m : Mode) : (numericInitialised s m).masks = 0x3F#6 := by
  unfold numericInitialised Numeric.masks
  dsimp only
  generalize Config.numericControl s.freeIndex = w
  ext k hk
  have : k = 0 ∨ k = 1 ∨ k = 2 ∨ k = 3 ∨ k = 4 ∨ k = 5 := by omega
  rcases this with rfl | rfl | rfl | rfl | rfl | rfl <;> simp

theorem numericNotStuck_ok {s : State} {u : Unit} : numericNotStuck s = .ok u ↔ s.numeric.busy ≠ .stuck := by
  simp [numericNotStuck]

theorem numericReady_ok {s : State} {u : Unit} :
    numericReady s = .ok u ↔ s.numeric.busy ≠ .stuck ∧ s.numeric.errorPending = false := by
  simp [numericReady, numericNotStuck, Try.bind_eq_ok]

/-- The words inside the limit end inside it. -/
theorem wordsInside_bound (c : SegCache) (off n : Nat) (h : off ≤ 0x10000) : off + 2 * wordsInside c off n ≤ 0x10000 := by
  induction n generalizing off with
  | zero => simpa [wordsInside] using h
  | succ n ih =>
    unfold wordsInside
    split
    · rename_i hl
      have hb := SegCache.inLimit_bound hl
      have := ih (off + 2) hb
      omega
    · simpa using h

theorem wordsInside_le (c : SegCache) (off n : Nat) : wordsInside c off n ≤ n := by
  induction n generalizing off with
  | zero => exact Nat.le_refl 0
  | succ n ih =>
    unfold wordsInside
    split
    · exact Nat.succ_le_succ (ih _)
    · exact Nat.zero_le _

/-- Storing words from `a` on changes no other byte. -/
theorem storeNumericWords_byte_other (s : State) {a j n b : Nat} (h : b < a ∨ a + 2 * n ≤ b) :
    (storeNumericWords s a j n).byte b = s.byte b := by
  induction n generalizing s a j with
  | zero => rfl
  | succ n ih =>
    unfold storeNumericWords
    rw [ih _ (by omega), State.setWord_byte_other _ _ (by omega)]

/-- Storing words changes memory and what the prefetcher may hold, and nothing else. -/
theorem storeNumericWords_same (s : State) (a j n : Nat) :
    { storeNumericWords s a j n with mem := s.mem, superseded := s.superseded } = s := by
  induction n generalizing s a j with
  | zero => rfl
  | succ n ih =>
    unfold storeNumericWords
    have h := ih (s.setWord a (Config.numericWord s.freeIndex j)) (a + 2) (j + 1)
    have e : { s.setWord a (Config.numericWord s.freeIndex j) with mem := s.mem, superseded := s.superseded } = s := by simp
    exact (congrArg (fun t : State => { t with mem := s.mem, superseded := s.superseded }) h).trans e

/-! ### Integer instructions -/

/-- ADC and SBB of a register always complete. -/
theorem carryRm_reg {ρ : Type} {w : Nat} (z : OpSize ρ w) (op : CarryOp) (s : State) (r : ρ) (b : BitVec w) :
    carryRm z op s (.reg r) b =
      .ok ({ z.setReg s r (op.result (z.get s.regs r) b s.flags.cf) with flags := op.flags s.flags (z.get s.regs r) b }.advance) :=
  rfl

theorem carryRm_mem_ok {ρ : Type} {w : Nat} {z : OpSize ρ w} {op : CarryOp} {s t : State} {m : MemOperand} {b : BitVec w} :
    carryRm z op s (.mem m) b = .ok t ↔
      ∃ ar aw, operandAddress s m z.bytes .read = .ok ar ∧ operandAddress s m z.bytes .write = .ok aw ∧
        t = ({ z.store s aw (op.result (z.load s ar) b s.flags.cf) with flags := op.flags s.flags (z.load s ar) b }.advance) := by
  simp only [carryRm, Try.bind_eq_ok, notRestartable_ok, Try.pure_eq_ok]
  exact ⟨fun ⟨a, ha, b, hb, e⟩ => ⟨a, b, ha, hb, e⟩, fun ⟨a, b, ha, hb, e⟩ => ⟨a, ha, b, hb, e⟩⟩

theorem exchange_mem_ok {ρ : Type} {w : Nat} {z : OpSize ρ w} {s t : State} {m : MemOperand} {r : ρ} :
    exchange z s (.mem m) r = .ok t ↔
      ∃ ar aw, operandAddress s m z.bytes .read = .ok ar ∧ operandAddress s m z.bytes .write = .ok aw ∧
        t = (z.setReg (z.store s aw (z.get s.regs r)) r (z.load s ar)).advance := by
  simp only [exchange, Try.bind_eq_ok, notRestartable_ok, Try.pure_eq_ok]
  exact ⟨fun ⟨a, ha, b, hb, e⟩ => ⟨a, b, ha, hb, e⟩, fun ⟨a, b, ha, hb, e⟩ => ⟨a, ha, b, hb, e⟩⟩

/-- A shift or rotate of a register always completes; by a masked count of 0 only IP changes. -/
theorem shiftRm_reg {ρ : Type} {w : Nat} (z : OpSize ρ w) (op : ShiftOp) (s : State) (r : ρ) (count : Byte) :
    shiftRm z op s (.reg r) count =
      .ok (if shiftCount count = 0 then s.advance
        else ({ z.setReg s r (shiftResult op s.flags (shiftCount count) (z.get s.regs r)) with
          flags := shiftFlags op s.flags s.freeIndex (shiftCount count) (z.get s.regs r) }.advance)) := by
  unfold shiftRm
  dsimp only
  split <;> rfl

theorem shiftRm_mem_ok {ρ : Type} {w : Nat} {z : OpSize ρ w} {op : ShiftOp} {s t : State} {m : MemOperand} {count : Byte} :
    shiftRm z op s (.mem m) count = .ok t ↔
      ∃ ar aw, operandAddress s m z.bytes .read = .ok ar ∧ operandAddress s m z.bytes .write = .ok aw ∧
        t = if shiftCount count = 0 then s.advance
          else ({ z.store s aw (shiftResult op s.flags (shiftCount count) (z.load s ar)) with
            flags := shiftFlags op s.flags s.freeIndex (shiftCount count) (z.load s ar) }.advance) := by
  have hz : ∀ c : Try Nat, (∃ u, zeroCountCheck c = .ok u) ↔ ∃ a, c = .ok a := by
    rintro ((_ | _ | _) | _) <;> simp [zeroCountCheck]
  by_cases h : shiftCount count = 0
  · simp only [shiftRm, h, if_true, Try.bind_eq_ok, Try.pure_eq_ok]
    constructor
    · rintro ⟨ar, hr, u, hu, e⟩
      obtain ⟨aw, hw⟩ := (hz _).mp ⟨u, hu⟩
      exact ⟨ar, aw, hr, hw, e⟩
    · rintro ⟨ar, aw, hr, hw, e⟩
      obtain ⟨u, hu⟩ := (hz _).mpr ⟨aw, hw⟩
      exact ⟨ar, hr, u, hu, e⟩
  · simp only [shiftRm, h, if_false, Try.bind_eq_ok, notRestartable_ok, Try.pure_eq_ok]
    exact ⟨fun ⟨a, ha, b, hb, e⟩ => ⟨a, b, ha, hb, e⟩, fun ⟨a, b, ha, hb, e⟩ => ⟨a, ha, b, hb, e⟩⟩

theorem divideEnd_ok {s t : State} {inRange : Bool} {r : Regs} :
    divideEnd s inRange r = .ok t ↔
      inRange = true ∧ t = ({ s with regs := r, flags := s.flags.undefinedSix s.freeIndex }).advance := by
  simp only [divideEnd, Try.bind_eq_ok, require_ok_iff, Try.pure_eq_ok, exists_const]

theorem jumpNear_ok {s t : State} {rel : Word} :
    jumpNear s rel = .ok t ↔
      BitVec.ofNat 16 s.ip1 + rel ≤ s.cs.cache.limit ∧ t = s.jump (BitVec.ofNat 16 s.ip1 + rel) := by
  simp only [jumpNear, Try.bind_eq_ok, require_ok_iff, decide_eq_true_eq, Try.pure_eq_ok, exists_const]

/-! ### Returns -/

theorem returnReal_ok {s t : State} :
    returnReal s = .ok t ↔
      ∃ ip cs v, stackWord s s.regs.sp = .ok ip ∧ stackWord s (s.regs.sp + 2#16) = .ok cs ∧
        stackWord s (s.regs.sp + 4#16) = .ok v ∧
        t = ((loadSegReal (s.setSp (s.regs.sp + 6#16)) .cs cs).loadFlags 0#2 v).jump ip := by
  simp only [returnReal, Try.bind_eq_ok, Try.pure_eq_ok]
  exact ⟨fun ⟨a, ha, b, hb, c, hc, e⟩ => ⟨a, b, c, ha, hb, hc, e⟩, fun ⟨a, b, c, ha, hb, hc, e⟩ => ⟨a, ha, b, hb, c, hc, e⟩⟩

theorem returnCodeChecks_ok {d : Descriptor} {cs : Word} {u : Unit} :
    returnCodeChecks d cs = .ok u ↔
      d.isCode = true ∧ d.present = true ∧ (if d.isConforming then d.dpl ≤ rpl cs else d.dpl = rpl cs) := by
  cases h : d.isConforming <;> simp [returnCodeChecks, Try.bind_eq_ok, h]

theorem returnStack_ok {s t : State} {level : BitVec 2} :
    returnStack s level = .ok t ↔
      (level = s.cpl ∧ t = s.setSp (s.regs.sp + 6#16)) ∨
      (level ≠ s.cpl ∧ ∃ sp ss u, frameWord s 6 = .ok sp ∧ frameWord s 8 = .ok ss ∧
        loadStackSegment s .returnStack ss level = .ok u ∧
        t = { u.setSp sp with ds := dropInner u.ds level, es := dropInner u.es level }) := by
  unfold returnStack
  split
  · rename_i h
    constructor
    · intro e
      cases e
      exact .inl ⟨h, rfl⟩
    · rintro (⟨-, rfl⟩ | ⟨h', -⟩)
      · rfl
      · exact absurd h h'
  · rename_i h
    simp only [Try.bind_eq_ok, Try.pure_eq_ok, h, false_and, false_or, ne_eq, not_false_eq_true, true_and]
    exact ⟨fun ⟨a, ha, b, hb, c, hc, e⟩ => ⟨a, b, c, ha, hb, hc, e⟩, fun ⟨a, b, c, ha, hb, hc, e⟩ => ⟨a, ha, b, hb, c, hc, e⟩⟩

/-- What IRET in protected mode with NT = 0 does when it raises nothing. -/
theorem returnProtected_ok {s t : State} :
    returnProtected s = .ok t ↔
      ∃ ip cs v d u, frameWord s 0 = .ok ip ∧ frameWord s 2 = .ok cs ∧
        frameWord s 4 = .ok v ∧ isNullSelector cs = false ∧ s.cpl ≤ rpl cs ∧
        readDescriptor s .returnCode cs (.trap .generalProtection (some (selectorCode cs))) = .ok d ∧
        d.isCode = true ∧ d.present = true ∧ (if d.isConforming then d.dpl ≤ rpl cs else d.dpl = rpl cs) ∧
        returnStack s (rpl cs) = .ok u ∧ ip ≤ d.limit ∧
        t = ((u.loadFrom .cs cs d (rpl cs)).loadFlags s.cpl v).jump ip := by
  simp only [returnProtected, Try.bind_eq_ok, Try.pure_eq_ok, require_ok_iff, returnCodeChecks_ok, Bool.not_eq_true',
    Bool.or_eq_false_iff, decide_eq_false_iff_not, BitVec.not_lt, decide_eq_true_eq, exists_const]
  constructor
  · rintro ⟨ip, h1, cs, h2, v, h3, ⟨h4, h5⟩, d, h6, ⟨h7, h8, h9⟩, u, h10, h11, e⟩
    exact ⟨ip, cs, v, d, u, h1, h2, h3, h4, h5, h6, h7, h8, h9, h10, h11, e⟩
  · rintro ⟨ip, cs, v, d, u, h1, h2, h3, h4, h5, h6, h7, h8, h9, h10, h11, e⟩
    exact ⟨ip, h1, cs, h2, v, h3, ⟨h4, h5⟩, d, h6, ⟨h7, h8, h9⟩, u, h10, h11, e⟩

/-- IRET with NT = 1 never completes. -/
theorem returnNested_ne_ok (s t : State) : returnNested s ≠ .ok t := by
  simp [returnNested, Try.bind_eq_ok]

theorem returnFromHandler_ok {s t : State} :
    returnFromHandler s = .ok t ↔
      (s.prot = false ∧ returnReal s = .ok t) ∨ (s.prot = true ∧ s.flags.nt = false ∧ returnProtected s = .ok t) := by
  unfold returnFromHandler
  cases hp : s.prot <;> cases hn : s.flags.nt <;> simp [returnNested_ne_ok]

/-! ### Prefixes and steps -/

/-- An instruction that is no prefix leaves none pending, whether it completes or takes an exception. -/
theorem complete_prefixLen {s t : State} {c : Try State} (h : complete s c = .next t) : t.prefixLen = 0 := by
  rcases complete_next h with ⟨u, -, rfl⟩ | ⟨x, ec, -, h⟩ | ⟨u, x, ec, -, h⟩
  · rfl
  · obtain ⟨u, -, rfl⟩ := takeException_next.mp h
    rfl
  · obtain ⟨v, -, rfl⟩ := takeException_next.mp h
    rfl

section
-- one theorem at a time: each concurrent theorem holds a thread with a large stack
set_option Elab.async false

/-- After an instruction that is no prefix the next step is at a boundary. -/
theorem exec_prefixLen {i : Instr} {s t : State} (hi : isPrefix i = false) (h : exec i s = .next t) : t.prefixLen = 0 := by
  cases i
  case esPrefix | csPrefix | ssPrefix | dsPrefix | lock => simp [isPrefix] at hi
  case adcAlImm8 | adcAxImm16 | sbbAlImm8 | sbbAxImm16 | nop | xchgAxR16 =>
    cases h
    rfl
  all_goals exact complete_prefixLen h

end

/-- A step is one fetch, unless that fetch read a prefix of an instruction that goes on. -/
theorem runInstruction_eq {n : Nat} {s : State} (h : ∀ t, fetchAndRun s = .next t → t.goesOn = false) :
    runInstruction n s = fetchAndRun s := by
  cases n with
  | zero => rfl
  | succ n =>
    unfold runInstruction
    split
    · rename_i t e
      rw [h t e, e]
      rfl
    · rename_i e
      rw [e]
    · rename_i e
      rw [e]

theorem step_eq {s : State} (h : ∀ t, fetchAndRun s = .next t → t.goesOn = false) : step s = fetchAndRun s :=
  runInstruction_eq h

/-- What holds of one fetch that answers a next state, and of a step that goes on from there, holds of a step. -/
theorem step_induction {P : State → State → Prop} (one : ∀ {s t}, fetchAndRun s = .next t → P s t)
    (more : ∀ {s t u}, fetchAndRun s = .next t → t.goesOn = true → P t u → P s u) {s t : State} (h : step s = .next t) : P s t := by
  unfold step at h
  generalize maxInstrBytes = n at h
  induction n generalizing s with
  | zero => exact one h
  | succ n ih =>
    unfold runInstruction at h
    split at h
    · rename_i u e
      split at h
      · rename_i hu
        exact more e hu (ih h)
      · cases h
        exact one e
    · cases h
    · cases h

/-- After a prefix one more byte of prefixes is pending; after everything else none is. -/
theorem exec_prefixLen_cases {i : Instr} {s t : State} (h : exec i s = .next t) :
    t.prefixLen = 0 ∨ (isPrefix i = true ∧ t.prefixLen = s.prefixLen + 1) := by
  cases hi : isPrefix i with
  | false => exact .inl (exec_prefixLen hi h)
  | true =>
    cases i
    case esPrefix | csPrefix | ssPrefix | dsPrefix =>
      cases h
      exact .inr ⟨rfl, rfl⟩
    case lock =>
      unfold exec execLock at h
      dsimp only at h
      split at h
      · cases h
        exact .inr ⟨rfl, rfl⟩
      · rename_i e _
        exact .inl (complete_prefixLen (c := .error e) h)
    all_goals cases hi

/-- An instruction of as many bytes as one may have goes no further. -/
theorem fetchInstr_full {s : State} (h : maxInstrBytes ≤ s.prefixLen) : fetchInstr s = .stop (.refused .instructionTooLong) := by
  have hw : fetchWindow s = [] := by
    unfold fetchWindow
    rw [Nat.sub_eq_zero_of_le h]
    rfl
  unfold fetchInstr
  simp only [hw, decode, List.length_nil, Nat.sub_eq_zero_of_le h, if_true]

/-- What one fetch leaves pending of prefixes. -/
theorem fetchAndRun_prefixLen {s t : State} (h : fetchAndRun s = .next t) (ht : t.prefixLen ≠ 0) :
    t.prefixLen = s.prefixLen + 1 ∧ s.prefixLen < maxInstrBytes := by
  have fetched : ∀ {u : State}, u.prefixLen = s.prefixLen →
      (match fetchInstr u with | .stop o => o | .run i v => exec i v) = .next t →
      t.prefixLen = s.prefixLen + 1 ∧ s.prefixLen < maxInstrBytes := by
    intro u hu h
    by_cases hm : maxInstrBytes ≤ u.prefixLen
    · rw [fetchInstr_full hm] at h
      cases h
    · rw [hu] at hm
      refine ⟨?_, by omega⟩
      unfold fetchInstr fetchFailure at h
      dsimp only at h
      split at h
      · rename_i o e
        exfalso
        apply ht
        subst h
        split at e
        · split at e <;> cases e
        · cases e
        · split at e
          · cases e
          · split at e
            · cases e
            · injection e with e
              exact complete_prefixLen (c := .error _) e
      · rename_i i v e
        rcases exec_prefixLen_cases h with h0 | ⟨-, h1⟩
        · exact absurd h0 ht
        · rw [h1, ← hu]
          split at e
          · split at e
            · cases e
            · cases e
              rfl
          · cases e
          · split at e <;> cases e
  have event : ∀ {e : Event} {u : State}, u.prefixLen = s.prefixLen → s.prefixLen = 0 →
      (match atEvent u e with | .stop o => o | .run i v => exec i v) = .next t →
      t.prefixLen = s.prefixLen + 1 ∧ s.prefixLen < maxInstrBytes := by
    intro e u hu h0 h
    have bounded : ∀ a : Action, (match guarded u a with | .stop o => o | .run i v => exec i v) = .next t →
        (match a with | .stop o => o | .run i v => exec i v) = .next t := by
      intro a ha
      unfold guarded at ha
      by_cases h1 : u.flags.tf = true
      · rw [if_pos h1] at ha
        cases ha
      · rw [if_neg h1] at ha
        by_cases h2 : (u.prot && decide (u.cs.cache.dpl ≠ u.ss.cache.dpl)) = true
        · rw [if_pos h2] at ha
          cases ha
        · rw [if_neg h2] at ha
          exact ha
    cases e with
    | quiet => exact fetched hu (bounded _ h)
    | interrupt n =>
      have h' := bounded _ h
      by_cases ha : u.accepts = true
      · rw [if_pos ha] at h'
        exact absurd (complete_prefixLen h') ht
      · rw [if_neg ha] at h'
        exact fetched hu h'
    | exception9 =>
      have h' := bounded _ h
      by_cases ha : u.exc9Pending = true
      · rw [if_pos ha] at h'
        exact absurd (complete_prefixLen (s := u) (c := .error (.trapIn _ _ _)) h') ht
      · rw [if_neg ha] at h'
        exact fetched hu h'
    | reset =>
      cases h
      exact absurd rfl ht
    | resetNumeric =>
      cases h
      exact absurd (hu.trans h0) ht
  unfold fetchAndRun nextAction at h
  by_cases h0 : s.tick.prefixLen = 0
  · rw [if_pos h0] at h
    cases hi : s.tick.inputs with
    | nil =>
      rw [hi] at h
      exact event (e := .exception9) (u := s.tick) rfl h0 h
    | cons e rest =>
      rw [hi] at h
      exact event (u := { s.tick with inputs := rest }) rfl h0 h
  · rw [if_neg h0] at h
    exact fetched (u := s.tick) rfl h

/-- As many fetches as an instruction can have bytes are enough. -/
theorem runInstruction_fuel {n : Nat} {s : State} (h : maxInstrBytes ≤ n + s.prefixLen) :
    runInstruction (n + 1) s = runInstruction n s := by
  induction n generalizing s with
  | zero =>
    refine runInstruction_eq fun t ht => ?_
    by_cases hp : t.prefixLen = 0
    · simp [State.goesOn, hp]
    · have := (fetchAndRun_prefixLen ht hp).2
      omega
  | succ n ih =>
    rw [runInstruction, runInstruction]
    split
    · rename_i t e
      split
      · rename_i hg
        have hp : t.prefixLen ≠ 0 := by simpa [State.goesOn] using hg
        have := (fetchAndRun_prefixLen e hp).1
        exact ih (by omega)
      · rfl
    · rfl
    · rfl

/-- A step that has read a prefix goes on as the step from there. -/
theorem step_goesOn {s t : State} (h : fetchAndRun s = .next t) (hg : t.goesOn = true) : step s = step t := by
  have hp : t.prefixLen ≠ 0 := by
    simpa [State.goesOn] using hg
  have h1 := (fetchAndRun_prefixLen h hp).1
  unfold step
  have e : runInstruction maxInstrBytes s = runInstruction 9 t := by
    rw [show maxInstrBytes = 9 + 1 from rfl, runInstruction, h]
    simp only [hg, if_true]
  rw [e]
  exact (runInstruction_fuel (n := 9) (s := t) (by unfold maxInstrBytes; omega)).symm

end Sys2Proof.Machine
end

