-- ==== Sys2Proof/Laws/Kept.lean ====
section
/-! SUPPORT. What the operations keep, said once: the registers that only LOADALL and RESET write, the canonical form and
the bounds of memory, the consistency of the descriptor cache entries, the 80287 and the I/O record. -/

namespace Sys2Proof.Machine

/-- What every operation but LOADALL and the two RESETs keeps from `s` to `t`. -/
structure KeptCore (s t : State) : Prop where
  msw : t.msw = s.msw
  gdtr : t.gdtr = s.gdtr
  idtr : t.idtr = s.idtr
  ldtr : t.ldtr = s.ldtr
  tr : t.tr = s.tr
  platform : t.platform = s.platform
  freeIndex : t.freeIndex = s.freeIndex
  inputs : t.inputs = s.inputs
  wf : s.mem.wf = true → t.mem.wf = true
  physical : (∀ c ∈ s.mem, c.1 < physicalSize) → ∀ c ∈ t.mem, c.1 < physicalSize
  entries : (∀ r, (s.seg r).cache.consistent = true) → ∀ r, (t.seg r).cache.consistent = true

/-- What an operation that touches neither the 80287 nor a port keeps besides. -/
structure Kept (s t : State) : Prop extends KeptCore s t where
  numeric : t.numeric = s.numeric
  exc9Pending : t.exc9Pending = s.exc9Pending
  ioLog : t.ioLog = s.ioLog

theorem KeptCore.refl (s : State) : KeptCore s s :=
  ⟨rfl, rfl, rfl, rfl, rfl, rfl, rfl, rfl, id, id, id⟩

theorem KeptCore.trans {s t u : State} (h : KeptCore s t) (k : KeptCore t u) : KeptCore s u :=
  ⟨k.msw.trans h.msw, k.gdtr.trans h.gdtr, k.idtr.trans h.idtr, k.ldtr.trans h.ldtr, k.tr.trans h.tr,
    k.platform.trans h.platform, k.freeIndex.trans h.freeIndex, k.inputs.trans h.inputs, k.wf ∘ h.wf,
    k.physical ∘ h.physical, k.entries ∘ h.entries⟩

theorem Kept.refl (s : State) : Kept s s := ⟨.refl s, rfl, rfl, rfl⟩

theorem Kept.trans {s t u : State} (h : Kept s t) (k : Kept t u) : Kept s u :=
  ⟨h.toKeptCore.trans k.toKeptCore, k.numeric.trans h.numeric, k.exc9Pending.trans h.exc9Pending, k.ioLog.trans h.ioLog⟩

/-- An update of none of the fields that `Kept` speaks of keeps them. -/
theorem Kept.of_same {s t : State} (h : { t with
    regs := s.regs, ip := s.ip, flags := s.flags, superseded := s.superseded, intShadow := s.intShadow, ip1 := s.ip1,
    ipPastEnd := s.ipPastEnd, prefixLen := s.prefixLen, override := s.override, lock := s.lock } = s) : Kept s t := by
  obtain ⟨⟩ := s
  obtain ⟨⟩ := t
  injection h
  subst_vars
  exact ⟨⟨rfl, rfl, rfl, rfl, rfl, rfl, rfl, rfl, id, id, fun w r => by
    have := w r
    cases r <;> exact this⟩, rfl, rfl, rfl⟩

/-! ### The updates of State -/

theorem Memory.mem_write {m : Memory} {a : Nat} {v : Byte} {c : Host.Cell} (h : c ∈ m.write a v) : c ∈ m ∨ c.1 = a := by
  induction m with
  | nil =>
    unfold Memory.write at h
    split at h
    · cases h
    · simp only [List.mem_singleton] at h
      exact .inr (by rw [h])
  | cons x t ih =>
    unfold Memory.write at h
    split at h
    · split at h
      · exact .inl h
      · rcases List.mem_cons.mp h with rfl | h
        · exact .inr rfl
        · exact .inl h
    · split at h
      · split at h
        · exact .inl (List.mem_cons_of_mem _ h)
        · rcases List.mem_cons.mp h with rfl | h
          · exact .inr rfl
          · exact .inl (List.mem_cons_of_mem _ h)
      · rcases List.mem_cons.mp h with rfl | h
        · exact .inl (List.mem_cons_self ..)
        · rcases ih h with h | h
          · exact .inl (List.mem_cons_of_mem _ h)
          · exact .inr h

theorem Kept.setByte (s : State) {a : Nat} (v : Byte) (h : a < physicalSize) : Kept s (s.setByte a v) where
  msw := by simp
  gdtr := by simp
  idtr := by simp
  ldtr := by simp
  tr := by simp
  platform := by simp
  freeIndex := by simp
  inputs := by simp
  wf := State.setByte_mem_wf a v
  physical := by
    intro w c hc
    unfold State.setByte at hc
    split at hc
    · rcases Memory.mem_write hc with hc | hc
      · exact w c hc
      · rw [hc]
        exact h
    · exact w c hc
  entries := by
    intro w r
    have := w r
    cases r <;> simpa [State.seg] using this
  numeric := by simp
  exc9Pending := by simp
  ioLog := by simp

theorem Kept.setWord (s : State) {a : Nat} (v : Word) (h : a + 2 ≤ physicalSize) : Kept s (s.setWord a v) :=
  (Kept.setByte s _ (by omega)).trans (Kept.setByte _ _ (by omega))

theorem Kept.setSeg (s : State) (r : SegReg) {g : Segment}
    (h : (s.seg r).cache.consistent = true → g.cache.consistent = true) : Kept s (s.setSeg r g) where
  msw := by simp
  gdtr := by simp
  idtr := by simp
  ldtr := by simp
  tr := by simp
  platform := by simp
  freeIndex := by simp
  inputs := by simp
  wf := by simp
  physical := by simp
  entries := by
    intro w q
    rw [State.setSeg_seg]
    split
    · exact h (w r)
    · exact w q
  numeric := by simp
  exc9Pending := by simp
  ioLog := by simp

/-- The cache entry of a descriptor is consistent. -/
theorem SegCache.ofAccess_consistent (base : Base) (limit : Word) (access : Byte) (level : BitVec 2) :
    SegCache.consistent { SegCache.ofAccess base limit access with dpl := level } = true := by
  unfold SegCache.consistent SegCache.ofAccess
  generalize access.getLsbD 3 = code
  cases code <;> simp

theorem Kept.setSp (s : State) (v : Word) : Kept s (s.setSp v) := .of_same rfl

theorem Kept.setReg {ρ : Type} {w : Nat} (z : OpSize ρ w) (s : State) (r : ρ) (v : BitVec w) : Kept s (z.setReg s r v) :=
  .of_same rfl

theorem Kept.advance (s : State) : Kept s s.advance := .of_same rfl

theorem Kept.jump (s : State) (t : Word) : Kept s (s.jump t) := .of_same rfl

theorem Kept.finish (s : State) : Kept s s.finish := .of_same rfl

theorem Kept.holdOff (s : State) (r : SegReg) : Kept s (s.holdOff r) := .of_same rfl

theorem Kept.loadFlags (s : State) (cpl : BitVec 2) (v : Word) : Kept s (s.loadFlags cpl v) := .of_same rfl

theorem Kept.setIe (s : State) (b : Bool) : Kept s (s.setIe b) := .of_same rfl

theorem Kept.setFlags (s : State) (f : Flags) : Kept s { s with flags := f } := .of_same rfl

theorem Kept.loadSegReal (s : State) (r : SegReg) (v : Word) : Kept s (loadSegReal s r v) :=
  .setSeg s r fun h => by simpa [SegCache.consistent] using h

theorem Kept.loadFrom (s : State) (r : SegReg) (v : Word) {d : Descriptor} (level : BitVec 2)
    (h : d.rightsAt < physicalSize) : Kept s (s.loadFrom r v d level) :=
  (Kept.setByte s _ h).trans (.setSeg _ r fun _ => SegCache.ofAccess_consistent ..)

/-! ### The shared operations -/

theorem Kept.push {s t : State} {v : Word} (h : Machine.push s v = .ok t) : Kept s t := by
  obtain ⟨a, ha, rfl⟩ := push_ok.mp h
  exact (Kept.setWord s v (lin_address ha).2).trans (.setSp _ _)

theorem Kept.enterReal {s t : State} {p : Purpose} {n : Nat} {ret : Word} (h : Machine.enterReal s p n ret = .ok t) :
    Kept s t := by
  obtain ⟨-, -, s1, s2, s3, p1, p2, p3, rfl⟩ := enterReal_ok.mp h
  refine ((Kept.push p1).trans (.push p2)).trans ((Kept.push p3).trans ?_)
  exact ((Kept.loadSegReal s3 .cs _).trans (.setFlags _ _)).trans (.jump _ _)

theorem Kept.switchStack {s t : State} {level : BitVec 2} (h : Machine.switchStack s level = .ok t) : Kept s t := by
  obtain ⟨sp, ss, d, s2, -, -, hd, -, -, -, -, p1, p2⟩ := switchStack_ok.mp h
  exact ((Kept.loadFrom s .ss ss level (readDescriptor_rightsAt hd)).trans (.setSp _ _)).trans ((Kept.push p1).trans (.push p2))

theorem Kept.enterGate {s t : State} {g : Gate} {ret : Word} {ec : Option Word}
    (h : Machine.enterGate s g ret ec = .ok t) : Kept s t := by
  obtain ⟨-, -, d, s1, s2, s3, s4, s5, hd, -, -, -, p1, p2, p3, p4, p5, -, rfl⟩ := enterGate_ok.mp h
  have k1 : Kept s s1 := by
    split at p1
    · exact .switchStack p1
    · rw [p1]
      exact .refl s
  have k5 : Kept s4 s5 := by
    cases ec with
    | none =>
      simp only at p5
      rw [p5]
      exact .refl s4
    | some c => exact .push p5
  refine (k1.trans ((Kept.push p2).trans (.push p3))).trans (((Kept.push p4).trans k5).trans ?_)
  exact (Kept.loadFrom s5 .cs _ _ (readDescriptor_rightsAt hd)).trans ((Kept.setFlags _ _).trans (.jump _ _))

theorem Kept.deliver {s t : State} {x : Exc} {ec : Option Word} (h : Machine.deliver s x ec = .ok t) : Kept s t := by
  rcases deliver_ok.mp h with ⟨-, g, -, h⟩ | ⟨-, h⟩
  · exact .enterGate h
  · exact .enterReal h

/-- Taking an exception keeps what an entry keeps. -/
theorem Kept.takeException {s t : State} {x : Exc} {ec : Option Word} (h : Machine.takeException s x ec = .next t) :
    Kept s t := by
  obtain ⟨u, hu, rfl⟩ := takeException_next.mp h
  exact (Kept.deliver hu).trans (.finish u)

theorem Kept.softwareInterrupt {s t : State} {n : Nat} (h : Machine.softwareInterrupt s n = .ok t) : Kept s t := by
  rcases softwareInterrupt_ok.mp h with ⟨-, g, -, -, h⟩ | ⟨-, h⟩
  · exact .enterGate h
  · exact .enterReal h

theorem Kept.externalInterrupt {s t : State} {n : Nat} (h : Machine.externalInterrupt s n = .ok t) : Kept s t := by
  rcases externalInterrupt_ok.mp h with ⟨-, g, -, h⟩ | ⟨-, h⟩
  · exact .enterGate h
  · exact .enterReal h

theorem Kept.loadSeg {s t : State} {r : SegReg} {v : Word} (h : Machine.loadSeg s r v = .ok t) : Kept s t := by
  rcases loadSeg_ok h with ⟨-, rfl⟩ | ⟨-, -, -, rfl⟩ | ⟨-, -, d, hd, -, rfl⟩
  · exact .loadSegReal s r v
  · exact .setSeg s r fun h => by simpa [SegCache.consistent] using h
  · exact .loadFrom s r v _ (readDescriptor_rightsAt hd)

/-- An instruction keeps what its own effect keeps, if the state its end carries does too. -/
theorem Kept.complete {s t : State} {c : Try State} (hok : ∀ u, c = .ok u → Kept s u)
    (htrap : ∀ u x ec, c = .error (.trapIn u x ec) → Kept s u) (h : Machine.complete s c = .next t) : Kept s t := by
  rcases complete_next h with ⟨u, hu, rfl⟩ | ⟨x, ec, -, h⟩ | ⟨u, x, ec, hu, h⟩
  · exact (hok u hu).trans (.finish u)
  · exact .takeException h
  · exact (htrap u x ec hu).trans (.takeException h)

/-! ### IOPL and IF over an entry -/

/-- An entry keeps IOPL and never sets IF. -/
structure EntryFlags (s t : State) : Prop where
  iopl : t.flags.iopl = s.flags.iopl
  ie : t.flags.ie = true → s.flags.ie = true

theorem EntryFlags.of_eq {s t : State} (h : t.flags = s.flags) : EntryFlags s t := ⟨by rw [h], by rw [h]; exact id⟩

theorem push_flags {s t : State} {v : Word} (h : push s v = .ok t) : t.flags = s.flags := by
  obtain ⟨a, -, rfl⟩ := push_ok.mp h
  simp

theorem EntryFlags.enterReal {s t : State} {p : Purpose} {n : Nat} {ret : Word} (h : Machine.enterReal s p n ret = .ok t) :
    EntryFlags s t := by
  obtain ⟨-, -, s1, s2, s3, p1, p2, p3, rfl⟩ := enterReal_ok.mp h
  exact ⟨by simp [push_flags p3, push_flags p2, push_flags p1], by simp⟩

theorem EntryFlags.enterGate {s t : State} {g : Gate} {ret : Word} {ec : Option Word}
    (h : Machine.enterGate s g ret ec = .ok t) : EntryFlags s t := by
  obtain ⟨-, -, d, s1, s2, s3, s4, s5, -, -, -, -, p1, p2, p3, p4, p5, -, rfl⟩ := enterGate_ok.mp h
  have k1 : s1.flags = s.flags := by
    split at p1
    · obtain ⟨_, _, _, _, -, -, -, -, -, -, -, q1, q2⟩ := switchStack_ok.mp p1
      rw [push_flags q2, push_flags q1]
      simp
    · rw [p1]
  have k5 : s5.flags = s4.flags := by
    cases ec with
    | none =>
      simp only at p5
      rw [p5]
    | some c => exact push_flags p5
  have k : s5.flags = s.flags := by rw [k5, push_flags p4, push_flags p3, push_flags p2, k1]
  refine ⟨by simp [k], ?_⟩
  simp only [State.jump_flags, Bool.and_eq_true, and_imp, k]
  exact fun h _ => h

theorem EntryFlags.takeException {s t : State} {x : Exc} {ec : Option Word}
    (h : Machine.takeException s x ec = .next t) : EntryFlags s t := by
  obtain ⟨u, hu, rfl⟩ := takeException_next.mp h
  rcases deliver_ok.mp hu with ⟨-, g, -, h⟩ | ⟨-, h⟩
  · exact ⟨(EntryFlags.enterGate h).iopl, (EntryFlags.enterGate h).ie⟩
  · exact ⟨(EntryFlags.enterReal h).iopl, (EntryFlags.enterReal h).ie⟩

end Sys2Proof.Machine
end

