-- ==== Sys2Proof/Laws/PerInstr.lean ====
section
/-! SUPPORT. Statements made for every instruction, one lemma a constructor. -/

namespace Sys2Proof

theorem wordBytes_length (w : Word) : (wordBytes w).length = 2 := rfl

/-- A ModRM byte and its displacement are one to three bytes (30_encoding.md R116). -/
theorem encodeMem_length (reg : BitVec 3) (m : MemOperand) : 1 ≤ (encodeMem reg m).length ∧ (encodeMem reg m).length ≤ 3 := by
  cases m with
  | direct d => simp [encodeMem, wordBytes]
  | based b d => cases d <;> simp [encodeMem, wordBytes]

/-- An r/m operand is one to three bytes (30_encoding.md R115, R116). -/
theorem encodeRm_length (reg : BitVec 3) (o : Rm (BitVec 3)) : 1 ≤ (encodeRm reg o).length ∧ (encodeRm reg o).length ≤ 3 := by
  cases o with
  | reg r => simp [encodeRm]
  | mem m => exact encodeMem_length reg m

theorem encodeRm8_length (reg : BitVec 3) (o : Rm Reg8) : 1 ≤ (encodeRm8 reg o).length ∧ (encodeRm8 reg o).length ≤ 3 :=
  encodeRm_length reg _

theorem encodeRm16_length (reg : BitVec 3) (o : Rm Reg16) : 1 ≤ (encodeRm16 reg o).length ∧ (encodeRm16 reg o).length ≤ 3 :=
  encodeRm_length reg _

/-- An instruction without its prefixes is one to six bytes, so that with four prefixes it still fits in the ten bytes of
30_encoding.md R123. -/
def Laws.EncodedLength.Statement (i : Instr) : Prop := 1 ≤ (encode i).length ∧ (encode i).length ≤ 6

section
-- one theorem at a time: each concurrent theorem holds a thread with a large stack
set_option Elab.async false

theorem Laws.EncodedLength.popEs : Statement .popEs := by simp [Statement, encode]

theorem Laws.EncodedLength.loadall : Statement .loadall := by simp [Statement, encode]

theorem Laws.EncodedLength.adcRm8R8 (dst : Rm Reg8) (src : Reg8) : Statement (.adcRm8R8 dst src) := by
  have h := encodeRm8_length src.toBits dst
  simp only [Statement, encode, List.length_cons]
  omega

theorem Laws.EncodedLength.adcRm16R16 (dst : Rm Reg16) (src : Reg16) : Statement (.adcRm16R16 dst src) := by
  have h := encodeRm16_length src.toBits dst
  simp only [Statement, encode, List.length_cons]
  omega

theorem Laws.EncodedLength.adcR8Rm8 (dst : Reg8) (src : Rm Reg8) : Statement (.adcR8Rm8 dst src) := by
  have h := encodeRm8_length dst.toBits src
  simp only [Statement, encode, List.length_cons]
  omega

theorem Laws.EncodedLength.adcR16Rm16 (dst : Reg16) (src : Rm Reg16) : Statement (.adcR16Rm16 dst src) := by
  have h := encodeRm16_length dst.toBits src
  simp only [Statement, encode, List.length_cons]
  omega

theorem Laws.EncodedLength.adcAlImm8 (imm : Byte) : Statement (.adcAlImm8 imm) := by simp [Statement, encode]

theorem Laws.EncodedLength.adcAxImm16 (imm : Word) : Statement (.adcAxImm16 imm) := by simp [Statement, encode, wordBytes]

theorem Laws.EncodedLength.popSs : Statement .popSs := by simp [Statement, encode]

theorem Laws.EncodedLength.sbbRm8R8 (dst : Rm Reg8) (src : Reg8) : Statement (.sbbRm8R8 dst src) := by
  have h := encodeRm8_length src.toBits dst
  simp only [Statement, encode, List.length_cons]
  omega

theorem Laws.EncodedLength.sbbRm16R16 (dst : Rm Reg16) (src : Reg16) : Statement (.sbbRm16R16 dst src) := by
  have h := encodeRm16_length src.toBits dst
  simp only [Statement, encode, List.length_cons]
  omega

theorem Laws.EncodedLength.sbbR8Rm8 (dst : Reg8) (src : Rm Reg8) : Statement (.sbbR8Rm8 dst src) := by
  have h := encodeRm8_length dst.toBits src
  simp only [Statement, encode, List.length_cons]
  omega

theorem Laws.EncodedLength.sbbR16Rm16 (dst : Reg16) (src : Rm Reg16) : Statement (.sbbR16Rm16 dst src) := by
  have h := encodeRm16_length dst.toBits src
  simp only [Statement, encode, List.length_cons]
  omega

theorem Laws.EncodedLength.sbbAlImm8 (imm : Byte) : Statement (.sbbAlImm8 imm) := by simp [Statement, encode]

theorem Laws.EncodedLength.sbbAxImm16 (imm : Word) : Statement (.sbbAxImm16 imm) := by simp [Statement, encode, wordBytes]

theorem Laws.EncodedLength.popDs : Statement .popDs := by simp [Statement, encode]

theorem Laws.EncodedLength.esPrefix : Statement .esPrefix := by simp [Statement, encode]

theorem Laws.EncodedLength.csPrefix : Statement .csPrefix := by simp [Statement, encode]

theorem Laws.EncodedLength.ssPrefix : Statement .ssPrefix := by simp [Statement, encode]

theorem Laws.EncodedLength.dsPrefix : Statement .dsPrefix := by simp [Statement, encode]

theorem Laws.EncodedLength.pushSp : Statement .pushSp := by simp [Statement, encode]

theorem Laws.EncodedLength.adcRm8Imm8 (dst : Rm Reg8) (imm : Byte) : Statement (.adcRm8Imm8 dst imm) := by
  have h := encodeRm8_length 2#3 dst
  simp only [Statement, encode, List.length_cons, List.length_append, List.length_nil]
  omega

theorem Laws.EncodedLength.sbbRm8Imm8 (dst : Rm Reg8) (imm : Byte) : Statement (.sbbRm8Imm8 dst imm) := by
  have h := encodeRm8_length 3#3 dst
  simp only [Statement, encode, List.length_cons, List.length_append, List.length_nil]
  omega

theorem Laws.EncodedLength.adcRm16Imm16 (dst : Rm Reg16) (imm : Word) : Statement (.adcRm16Imm16 dst imm) := by
  have h := encodeRm16_length 2#3 dst
  simp only [Statement, encode, List.length_cons, List.length_append, wordBytes_length]
  omega

theorem Laws.EncodedLength.sbbRm16Imm16 (dst : Rm Reg16) (imm : Word) : Statement (.sbbRm16Imm16 dst imm) := by
  have h := encodeRm16_length 3#3 dst
  simp only [Statement, encode, List.length_cons, List.length_append, wordBytes_length]
  omega

theorem Laws.EncodedLength.adcRm16SextImm8 (dst : Rm Reg16) (imm : Byte) : Statement (.adcRm16SextImm8 dst imm) := by
  have h := encodeRm16_length 2#3 dst
  simp only [Statement, encode, List.length_cons, List.length_append, List.length_nil]
  omega

theorem Laws.EncodedLength.sbbRm16SextImm8 (dst : Rm Reg16) (imm : Byte) : Statement (.sbbRm16SextImm8 dst imm) := by
  have h := encodeRm16_length 3#3 dst
  simp only [Statement, encode, List.length_cons, List.length_append, List.length_nil]
  omega

theorem Laws.EncodedLength.xchgRm8R8 (dst : Rm Reg8) (src : Reg8) : Statement (.xchgRm8R8 dst src) := by
  have h := encodeRm8_length src.toBits dst
  simp only [Statement, encode, List.length_cons]
  omega

theorem Laws.EncodedLength.xchgRm16R16 (dst : Rm Reg16) (src : Reg16) : Statement (.xchgRm16R16 dst src) := by
  have h := encodeRm16_length src.toBits dst
  simp only [Statement, encode, List.length_cons]
  omega

theorem Laws.EncodedLength.movRm8R8 (dst : Rm Reg8) (src : Reg8) : Statement (.movRm8R8 dst src) := by
  have h := encodeRm8_length src.toBits dst
  simp only [Statement, encode, List.length_cons]
  omega

theorem Laws.EncodedLength.movRm16R16 (dst : Rm Reg16) (src : Reg16) : Statement (.movRm16R16 dst src) := by
  have h := encodeRm16_length src.toBits dst
  simp only [Statement, encode, List.length_cons]
  omega

theorem Laws.EncodedLength.movR8Rm8 (dst : Reg8) (src : Rm Reg8) : Statement (.movR8Rm8 dst src) := by
  have h := encodeRm8_length dst.toBits src
  simp only [Statement, encode, List.length_cons]
  omega

theorem Laws.EncodedLength.movR16Rm16 (dst : Reg16) (src : Rm Reg16) : Statement (.movR16Rm16 dst src) := by
  have h := encodeRm16_length dst.toBits src
  simp only [Statement, encode, List.length_cons]
  omega

theorem Laws.EncodedLength.movRm16Sreg (dst : Rm Reg16) (src : SegReg) : Statement (.movRm16Sreg dst src) := by
  have h := encodeRm16_length src.toBits dst
  simp only [Statement, encode, List.length_cons]
  omega

theorem Laws.EncodedLength.movSregRm16 (dst : SegReg) (src : Rm Reg16) : Statement (.movSregRm16 dst src) := by
  have h := encodeRm16_length dst.toBits src
  simp only [Statement, encode, List.length_cons]
  omega

theorem Laws.EncodedLength.nop : Statement .nop := by simp [Statement, encode]

theorem Laws.EncodedLength.xchgAxR16 (src : Reg16) : Statement (.xchgAxR16 src) := by simp [Statement, encode]

theorem Laws.EncodedLength.wait : Statement .wait := by simp [Statement, encode]

theorem Laws.EncodedLength.pushf : Statement .pushf := by simp [Statement, encode]

theorem Laws.EncodedLength.popf : Statement .popf := by simp [Statement, encode]

theorem Laws.EncodedLength.rolRm8Imm8 (dst : Rm Reg8) (count : Byte) : Statement (.rolRm8Imm8 dst count) := by
  have h := encodeRm8_length 0#3 dst
  simp only [Statement, encode, List.length_cons, List.length_append, List.length_nil]
  omega

theorem Laws.EncodedLength.rorRm8Imm8 (dst : Rm Reg8) (count : Byte) : Statement (.rorRm8Imm8 dst count) := by
  have h := encodeRm8_length 1#3 dst
  simp only [Statement, encode, List.length_cons, List.length_append, List.length_nil]
  omega

theorem Laws.EncodedLength.rclRm8Imm8 (dst : Rm Reg8) (count : Byte) : Statement (.rclRm8Imm8 dst count) := by
  have h := encodeRm8_length 2#3 dst
  simp only [Statement, encode, List.length_cons, List.length_append, List.length_nil]
  omega

theorem Laws.EncodedLength.rcrRm8Imm8 (dst : Rm Reg8) (count : Byte) : Statement (.rcrRm8Imm8 dst count) := by
  have h := encodeRm8_length 3#3 dst
  simp only [Statement, encode, List.length_cons, List.length_append, List.length_nil]
  omega

theorem Laws.EncodedLength.shlRm8Imm8 (dst : Rm Reg8) (count : Byte) : Statement (.shlRm8Imm8 dst count) := by
  have h := encodeRm8_length 4#3 dst
  simp only [Statement, encode, List.length_cons, List.length_append, List.length_nil]
  omega

theorem Laws.EncodedLength.shrRm8Imm8 (dst : Rm Reg8) (count : Byte) : Statement (.shrRm8Imm8 dst count) := by
  have h := encodeRm8_length 5#3 dst
  simp only [Statement, encode, List.length_cons, List.length_append, List.length_nil]
  omega

theorem Laws.EncodedLength.sarRm8Imm8 (dst : Rm Reg8) (count : Byte) : Statement (.sarRm8Imm8 dst count) := by
  have h := encodeRm8_length 7#3 dst
  simp only [Statement, encode, List.length_cons, List.length_append, List.length_nil]
  omega

theorem Laws.EncodedLength.rolRm16Imm8 (dst : Rm Reg16) (count : Byte) : Statement (.rolRm16Imm8 dst count) := by
  have h := encodeRm16_length 0#3 dst
  simp only [Statement, encode, List.length_cons, List.length_append, List.length_nil]
  omega

theorem Laws.EncodedLength.rorRm16Imm8 (dst : Rm Reg16) (count : Byte) : Statement (.rorRm16Imm8 dst count) := by
  have h := encodeRm16_length 1#3 dst
  simp only [Statement, encode, List.length_cons, List.length_append, List.length_nil]
  omega

theorem Laws.EncodedLength.rclRm16Imm8 (dst : Rm Reg16) (count : Byte) : Statement (.rclRm16Imm8 dst count) := by
  have h := encodeRm16_length 2#3 dst
  simp only [Statement, encode, List.length_cons, List.length_append, List.length_nil]
  omega

theorem Laws.EncodedLength.rcrRm16Imm8 (dst : Rm Reg16) (count : Byte) : Statement (.rcrRm16Imm8 dst count) := by
  have h := encodeRm16_length 3#3 dst
  simp only [Statement, encode, List.length_cons, List.length_append, List.length_nil]
  omega

theorem Laws.EncodedLength.shlRm16Imm8 (dst : Rm Reg16) (count : Byte) : Statement (.shlRm16Imm8 dst count) := by
  have h := encodeRm16_length 4#3 dst
  simp only [Statement, encode, List.length_cons, List.length_append, List.length_nil]
  omega

theorem Laws.EncodedLength.shrRm16Imm8 (dst : Rm Reg16) (count : Byte) : Statement (.shrRm16Imm8 dst count) := by
  have h := encodeRm16_length 5#3 dst
  simp only [Statement, encode, List.length_cons, List.length_append, List.length_nil]
  omega

theorem Laws.EncodedLength.sarRm16Imm8 (dst : Rm Reg16) (count : Byte) : Statement (.sarRm16Imm8 dst count) := by
  have h := encodeRm16_length 7#3 dst
  simp only [Statement, encode, List.length_cons, List.length_append, List.length_nil]
  omega

theorem Laws.EncodedLength.les (dst : Reg16) (src : MemOperand) : Statement (.les dst src) := by
  have h := encodeMem_length dst.toBits src
  simp only [Statement, encode, List.length_cons]
  omega

theorem Laws.EncodedLength.lds (dst : Reg16) (src : MemOperand) : Statement (.lds dst src) := by
  have h := encodeMem_length dst.toBits src
  simp only [Statement, encode, List.length_cons]
  omega

theorem Laws.EncodedLength.int3 : Statement .int3 := by simp [Statement, encode]

theorem Laws.EncodedLength.intImm8 (n : Byte) : Statement (.intImm8 n) := by simp [Statement, encode]

theorem Laws.EncodedLength.iret : Statement .iret := by simp [Statement, encode]

theorem Laws.EncodedLength.rolRm8One (dst : Rm Reg8) : Statement (.rolRm8One dst) := by
  have h := encodeRm8_length 0#3 dst
  simp only [Statement, encode, List.length_cons]
  omega

theorem Laws.EncodedLength.rorRm8One (dst : Rm Reg8) : Statement (.rorRm8One dst) := by
  have h := encodeRm8_length 1#3 dst
  simp only [Statement, encode, List.length_cons]
  omega

theorem Laws.EncodedLength.rclRm8One (dst : Rm Reg8) : Statement (.rclRm8One dst) := by
  have h := encodeRm8_length 2#3 dst
  simp only [Statement, encode, List.length_cons]
  omega

theorem Laws.EncodedLength.rcrRm8One (dst : Rm Reg8) : Statement (.rcrRm8One dst) := by
  have h := encodeRm8_length 3#3 dst
  simp only [Statement, encode, List.length_cons]
  omega

theorem Laws.EncodedLength.shlRm8One (dst : Rm Reg8) : Statement (.shlRm8One dst) := by
  have h := encodeRm8_length 4#3 dst
  simp only [Statement, encode, List.length_cons]
  omega

theorem Laws.EncodedLength.shrRm8One (dst : Rm Reg8) : Statement (.shrRm8One dst) := by
  have h := encodeRm8_length 5#3 dst
  simp only [Statement, encode, List.length_cons]
  omega

theorem Laws.EncodedLength.sarRm8One (dst : Rm Reg8) : Statement (.sarRm8One dst) := by
  have h := encodeRm8_length 7#3 dst
  simp only [Statement, encode, List.length_cons]
  omega

theorem Laws.EncodedLength.rolRm16One (dst : Rm Reg16) : Statement (.rolRm16One dst) := by
  have h := encodeRm16_length 0#3 dst
  simp only [Statement, encode, List.length_cons]
  omega

theorem Laws.EncodedLength.rorRm16One (dst : Rm Reg16) : Statement (.rorRm16One dst) := by
  have h := encodeRm16_length 1#3 dst
  simp only [Statement, encode, List.length_cons]
  omega

theorem Laws.EncodedLength.rclRm16One (dst : Rm Reg16) : Statement (.rclRm16One dst) := by
  have h := encodeRm16_length 2#3 dst
  simp only [Statement, encode, List.length_cons]
  omega

theorem Laws.EncodedLength.rcrRm16One (dst : Rm Reg16) : Statement (.rcrRm16One dst) := by
  have h := encodeRm16_length 3#3 dst
  simp only [Statement, encode, List.length_cons]
  omega

theorem Laws.EncodedLength.shlRm16One (dst : Rm Reg16) : Statement (.shlRm16One dst) := by
  have h := encodeRm16_length 4#3 dst
  simp only [Statement, encode, List.length_cons]
  omega

theorem Laws.EncodedLength.shrRm16One (dst : Rm Reg16) : Statement (.shrRm16One dst) := by
  have h := encodeRm16_length 5#3 dst
  simp only [Statement, encode, List.length_cons]
  omega

theorem Laws.EncodedLength.sarRm16One (dst : Rm Reg16) : Statement (.sarRm16One dst) := by
  have h := encodeRm16_length 7#3 dst
  simp only [Statement, encode, List.length_cons]
  omega

theorem Laws.EncodedLength.rolRm8Cl (dst : Rm Reg8) : Statement (.rolRm8Cl dst) := by
  have h := encodeRm8_length 0#3 dst
  simp only [Statement, encode, List.length_cons]
  omega

theorem Laws.EncodedLength.rorRm8Cl (dst : Rm Reg8) : Statement (.rorRm8Cl dst) := by
  have h := encodeRm8_length 1#3 dst
  simp only [Statement, encode, List.length_cons]
  omega

theorem Laws.EncodedLength.rclRm8Cl (dst : Rm Reg8) : Statement (.rclRm8Cl dst) := by
  have h := encodeRm8_length 2#3 dst
  simp only [Statement, encode, List.length_cons]
  omega

theorem Laws.EncodedLength.rcrRm8Cl (dst : Rm Reg8) : Statement (.rcrRm8Cl dst) := by
  have h := encodeRm8_length 3#3 dst
  simp only [Statement, encode, List.length_cons]
  omega

theorem Laws.EncodedLength.shlRm8Cl (dst : Rm Reg8) : Statement (.shlRm8Cl dst) := by
  have h := encodeRm8_length 4#3 dst
  simp only [Statement, encode, List.length_cons]
  omega

theorem Laws.EncodedLength.shrRm8Cl (dst : Rm Reg8) : Statement (.shrRm8Cl dst) := by
  have h := encodeRm8_length 5#3 dst
  simp only [Statement, encode, List.length_cons]
  omega

theorem Laws.EncodedLength.sarRm8Cl (dst : Rm Reg8) : Statement (.sarRm8Cl dst) := by
  have h := encodeRm8_length 7#3 dst
  simp only [Statement, encode, List.length_cons]
  omega

theorem Laws.EncodedLength.rolRm16Cl (dst : Rm Reg16) : Statement (.rolRm16Cl dst) := by
  have h := encodeRm16_length 0#3 dst
  simp only [Statement, encode, List.length_cons]
  omega

theorem Laws.EncodedLength.rorRm16Cl (dst : Rm Reg16) : Statement (.rorRm16Cl dst) := by
  have h := encodeRm16_length 1#3 dst
  simp only [Statement, encode, List.length_cons]
  omega

theorem Laws.EncodedLength.rclRm16Cl (dst : Rm Reg16) : Statement (.rclRm16Cl dst) := by
  have h := encodeRm16_length 2#3 dst
  simp only [Statement, encode, List.length_cons]
  omega

theorem Laws.EncodedLength.rcrRm16Cl (dst : Rm Reg16) : Statement (.rcrRm16Cl dst) := by
  have h := encodeRm16_length 3#3 dst
  simp only [Statement, encode, List.length_cons]
  omega

theorem Laws.EncodedLength.shlRm16Cl (dst : Rm Reg16) : Statement (.shlRm16Cl dst) := by
  have h := encodeRm16_length 4#3 dst
  simp only [Statement, encode, List.length_cons]
  omega

theorem Laws.EncodedLength.shrRm16Cl (dst : Rm Reg16) : Statement (.shrRm16Cl dst) := by
  have h := encodeRm16_length 5#3 dst
  simp only [Statement, encode, List.length_cons]
  omega

theorem Laws.EncodedLength.sarRm16Cl (dst : Rm Reg16) : Statement (.sarRm16Cl dst) := by
  have h := encodeRm16_length 7#3 dst
  simp only [Statement, encode, List.length_cons]
  omega

theorem Laws.EncodedLength.esc (op : BitVec 3) (reg : BitVec 3) (operand : Rm (BitVec 3)) : Statement (.esc op reg operand) := by
  have h := encodeRm_length reg operand
  simp only [Statement, encode, List.length_cons]
  omega

theorem Laws.EncodedLength.fninit : Statement .fninit := by simp [Statement, encode]

theorem Laws.EncodedLength.fsetpm : Statement .fsetpm := by simp [Statement, encode]

theorem Laws.EncodedLength.inAlImm8 (port : Byte) : Statement (.inAlImm8 port) := by simp [Statement, encode]

theorem Laws.EncodedLength.inAxImm8 (port : Byte) : Statement (.inAxImm8 port) := by simp [Statement, encode]

theorem Laws.EncodedLength.outImm8Al (port : Byte) : Statement (.outImm8Al port) := by simp [Statement, encode]

theorem Laws.EncodedLength.outImm8Ax (port : Byte) : Statement (.outImm8Ax port) := by simp [Statement, encode]

theorem Laws.EncodedLength.jmpRel16 (rel : Word) : Statement (.jmpRel16 rel) := by simp [Statement, encode, wordBytes]

theorem Laws.EncodedLength.jmpFar (off : Word) (seg : Word) : Statement (.jmpFar off seg) := by simp [Statement, encode, wordBytes]

theorem Laws.EncodedLength.jmpRel8 (rel : Byte) : Statement (.jmpRel8 rel) := by simp [Statement, encode]

theorem Laws.EncodedLength.inAlDx : Statement .inAlDx := by simp [Statement, encode]

theorem Laws.EncodedLength.inAxDx : Statement .inAxDx := by simp [Statement, encode]

theorem Laws.EncodedLength.outDxAl : Statement .outDxAl := by simp [Statement, encode]

theorem Laws.EncodedLength.outDxAx : Statement .outDxAx := by simp [Statement, encode]

theorem Laws.EncodedLength.lock : Statement .lock := by simp [Statement, encode]

theorem Laws.EncodedLength.divRm8 (src : Rm Reg8) : Statement (.divRm8 src) := by
  have h := encodeRm8_length 6#3 src
  simp only [Statement, encode, List.length_cons]
  omega

theorem Laws.EncodedLength.idivRm8 (src : Rm Reg8) : Statement (.idivRm8 src) := by
  have h := encodeRm8_length 7#3 src
  simp only [Statement, encode, List.length_cons]
  omega

theorem Laws.EncodedLength.divRm16 (src : Rm Reg16) : Statement (.divRm16 src) := by
  have h := encodeRm16_length 6#3 src
  simp only [Statement, encode, List.length_cons]
  omega

theorem Laws.EncodedLength.idivRm16 (src : Rm Reg16) : Statement (.idivRm16 src) := by
  have h := encodeRm16_length 7#3 src
  simp only [Statement, encode, List.length_cons]
  omega

theorem Laws.EncodedLength.cli : Statement .cli := by simp [Statement, encode]

theorem Laws.EncodedLength.sti : Statement .sti := by simp [Statement, encode]

end

end Sys2Proof
end

