-- ==== Sys2Proof/Tests/Slice0.lean ====
section
/-! SUPPORT. The model's own tests, each about one step or one operation on a small state: ill-formed terms refused, a word of
every constructor decoded, results from spec/95_test_vectors.md (named there by section or program), and for every statement
of Certificates/Slice0/Obligations.lean with hypotheses a state and operands that meet them, clause by clause. -/

namespace Sys2Proof.Tests
open Sys2Proof Sys2Proof.Machine

section
-- one theorem at a time: each concurrent theorem holds a thread with a large stack
set_option Elab.async false

/-! ### Ill-formed terms -/

theorem test_wellFormed_bp_without_displacement :
    (MemOperand.based .bp .none).wellFormed = false ∧
    (Instr.movRm8R8 (.mem (.based .bp .none)) .al).wellFormed = false ∧
    (Instr.les .ax (.based .bp .none)).wellFormed = false ∧
    (Instr.esc 0#3 0#3 (.mem (.based .bp .none))).wellFormed = false := by decide

theorem test_wellFormed_mov_into_cs : (Instr.movSregRm16 .cs (.reg .ax)).wellFormed = false := by decide

theorem test_wellFormed_xchg_ax_ax : (Instr.xchgAxR16 .ax).wellFormed = false := by decide

theorem test_wellFormed_control_escapes :
    (Instr.esc 3#3 4#3 (.reg 3#3)).wellFormed = false ∧ (Instr.esc 3#3 4#3 (.reg 4#3)).wellFormed = false := by decide

/-! ### A word of every constructor (30_encoding.md R115, R116, R119) -/

theorem test_decode_adc :
    decode [0x10#8, 0xCB#8] = .instr (.adcRm8R8 (.reg .bl) .cl) [] ∧
    decode [0x11#8, 0x76#8, 0xFE#8] = .instr (.adcRm16R16 (.mem (.based .bp (.d8 0xFE#8))) .si) [] ∧
    decode [0x12#8, 0x26#8, 0x34#8, 0x12#8] = .instr (.adcR8Rm8 .ah (.mem (.direct 0x1234#16))) [] ∧
    decode [0x13#8, 0xD4#8] = .instr (.adcR16Rm16 .dx (.reg .sp)) [] ∧
    decode [0x14#8, 0x7F#8] = .instr (.adcAlImm8 0x7F#8) [] ∧
    decode [0x15#8, 0xCC#8, 0x0F#8] = .instr (.adcAxImm16 0x0FCC#16) [] ∧
    decode [0x80#8, 0x13#8, 0x12#8] = .instr (.adcRm8Imm8 (.mem (.based .bpDi .none)) 0x12#8) [] ∧
    decode [0x81#8, 0x51#8, 0x10#8, 0x34#8, 0x12#8] = .instr (.adcRm16Imm16 (.mem (.based .bxDi (.d8 0x10#8))) 0x1234#16) [] ∧
    decode [0x83#8, 0xD5#8, 0xFF#8] = .instr (.adcRm16SextImm8 (.reg .bp) 0xFF#8) [] := by decide

theorem test_decode_sbb :
    decode [0x18#8, 0x0C#8] = .instr (.sbbRm8R8 (.mem (.based .si .none)) .cl) [] ∧
    decode [0x19#8, 0x75#8, 0x7F#8] = .instr (.sbbRm16R16 (.mem (.based .di (.d8 0x7F#8))) .si) [] ∧
    decode [0x1A#8, 0xE6#8] = .instr (.sbbR8Rm8 .ah (.reg .dh)) [] ∧
    decode [0x1B#8, 0x17#8] = .instr (.sbbR16Rm16 .dx (.mem (.based .bx .none))) [] ∧
    decode [0x1C#8, 0x7F#8] = .instr (.sbbAlImm8 0x7F#8) [] ∧
    decode [0x1D#8, 0xCC#8, 0x0F#8] = .instr (.sbbAxImm16 0x0FCC#16) [] ∧
    decode [0x80#8, 0x5E#8, 0xFE#8, 0x12#8] = .instr (.sbbRm8Imm8 (.mem (.based .bp (.d8 0xFE#8))) 0x12#8) [] ∧
    decode [0x81#8, 0xDF#8, 0x34#8, 0x12#8] = .instr (.sbbRm16Imm16 (.reg .di) 0x1234#16) [] ∧
    decode [0x83#8, 0x98#8, 0x78#8, 0x56#8, 0xFF#8] = .instr (.sbbRm16SextImm8 (.mem (.based .bxSi (.d16 0x5678#16))) 0xFF#8) [] := by decide

theorem test_decode_pop_prefix :
    decode [0x07#8] = .instr (.popEs) [] ∧
    decode [0x17#8] = .instr (.popSs) [] ∧
    decode [0x1F#8] = .instr (.popDs) [] ∧
    decode [0x26#8] = .instr (.esPrefix) [] ∧
    decode [0x2E#8] = .instr (.csPrefix) [] ∧
    decode [0x36#8] = .instr (.ssPrefix) [] ∧
    decode [0x3E#8] = .instr (.dsPrefix) [] ∧
    decode [0xF0#8] = .instr (.lock) [] := by decide

theorem test_decode_mov :
    decode [0x88#8, 0x1B#8] = .instr (.movRm8R8 (.mem (.based .bpDi .none)) .bl) [] ∧
    decode [0x89#8, 0xF8#8] = .instr (.movRm16R16 (.reg .ax) .di) [] ∧
    decode [0x8A#8, 0xAA#8, 0x01#8, 0x80#8] = .instr (.movR8Rm8 .ch (.mem (.based .bpSi (.d16 0x8001#16)))) [] ∧
    decode [0x8B#8, 0x04#8] = .instr (.movR16Rm16 .ax (.mem (.based .si .none))) [] ∧
    decode [0x8C#8, 0xC9#8] = .instr (.movRm16Sreg (.reg .cx) .cs) [] ∧
    decode [0x8E#8, 0x96#8, 0x00#8, 0x00#8] = .instr (.movSregRm16 .ss (.mem (.based .bp (.d16 0x0000#16)))) [] ∧
    decode [0xC4#8, 0x1F#8] = .instr (.les .bx (.based .bx .none)) [] ∧
    decode [0xC5#8, 0x6E#8, 0xFE#8] = .instr (.lds .bp (.based .bp (.d8 0xFE#8))) [] := by decide

theorem test_decode_xchg :
    decode [0x86#8, 0x36#8, 0x34#8, 0x12#8] = .instr (.xchgRm8R8 (.mem (.direct 0x1234#16)) .dh) [] ∧
    decode [0x87#8, 0xA0#8, 0x78#8, 0x56#8] = .instr (.xchgRm16R16 (.mem (.based .bxSi (.d16 0x5678#16))) .sp) [] ∧
    decode [0x91#8] = .instr (.xchgAxR16 .cx) [] ∧
    decode [0x97#8] = .instr (.xchgAxR16 .di) [] ∧
    decode [0x90#8] = .instr (.nop) [] ∧
    decode [0x54#8] = .instr (.pushSp) [] := by decide

theorem test_decode_system :
    decode [0x0F#8, 0x05#8] = .instr (.loadall) [] ∧
    decode [0x9B#8] = .instr (.wait) [] ∧
    decode [0x9C#8] = .instr (.pushf) [] ∧
    decode [0x9D#8] = .instr (.popf) [] ∧
    decode [0xCC#8] = .instr (.int3) [] ∧
    decode [0xCD#8, 0x21#8] = .instr (.intImm8 0x21#8) [] ∧
    decode [0xCF#8] = .instr (.iret) [] ∧
    decode [0xFA#8] = .instr (.cli) [] ∧
    decode [0xFB#8] = .instr (.sti) [] := by decide

theorem test_decode_port :
    decode [0xE4#8, 0x60#8] = .instr (.inAlImm8 0x60#8) [] ∧
    decode [0xE5#8, 0xF7#8] = .instr (.inAxImm8 0xF7#8) [] ∧
    decode [0xE6#8, 0xFF#8] = .instr (.outImm8Al 0xFF#8) [] ∧
    decode [0xE7#8, 0x61#8] = .instr (.outImm8Ax 0x61#8) [] ∧
    decode [0xEC#8] = .instr (.inAlDx) [] ∧
    decode [0xED#8] = .instr (.inAxDx) [] ∧
    decode [0xEE#8] = .instr (.outDxAl) [] ∧
    decode [0xEF#8] = .instr (.outDxAx) [] := by decide

theorem test_decode_jump :
    decode [0xE9#8, 0xFD#8, 0xFF#8] = .instr (.jmpRel16 0xFFFD#16) [] ∧
    decode [0xEA#8, 0x5B#8, 0xE0#8, 0x00#8, 0xF0#8] = .instr (.jmpFar 0xE05B#16 0xF000#16) [] ∧
    decode [0xEB#8, 0x0E#8] = .instr (.jmpRel8 0x0E#8) [] := by decide

theorem test_decode_divide :
    decode [0xF6#8, 0xF3#8] = .instr (.divRm8 (.reg .bl)) [] ∧
    decode [0xF6#8, 0x79#8, 0x10#8] = .instr (.idivRm8 (.mem (.based .bxDi (.d8 0x10#8)))) [] ∧
    decode [0xF7#8, 0xB2#8, 0x01#8, 0x80#8] = .instr (.divRm16 (.mem (.based .bpSi (.d16 0x8001#16)))) [] ∧
    decode [0xF7#8, 0xFC#8] = .instr (.idivRm16 (.reg .sp)) [] := by decide

theorem test_decode_escape :
    decode [0xDB#8, 0xE3#8] = .instr (.fninit) [] ∧
    decode [0xDB#8, 0xE4#8] = .instr (.fsetpm) [] ∧
    decode [0xD9#8, 0x07#8] = .instr (.esc 1#3 0#3 (.mem (.based .bx .none))) [] ∧
    decode [0xDB#8, 0xE2#8] = .instr (.esc 3#3 4#3 (.reg 2#3)) [] ∧
    decode [0xDF#8, 0xFF#8] = .instr (.esc 7#3 7#3 (.reg 7#3)) [] ∧
    decode [0xDB#8, 0x26#8, 0x34#8, 0x12#8] = .instr (.esc 3#3 4#3 (.mem (.direct 0x1234#16))) [] := by decide

theorem test_decode_shift8_one :
    decode [0xD0#8, 0x45#8, 0x7F#8] = .instr (.rolRm8One (.mem (.based .di (.d8 0x7F#8)))) [] ∧
    decode [0xD0#8, 0x4E#8, 0xFE#8] = .instr (.rorRm8One (.mem (.based .bp (.d8 0xFE#8)))) [] ∧
    decode [0xD0#8, 0x13#8] = .instr (.rclRm8One (.mem (.based .bpDi .none))) [] ∧
    decode [0xD0#8, 0x1C#8] = .instr (.rcrRm8One (.mem (.based .si .none))) [] ∧
    decode [0xD0#8, 0x27#8] = .instr (.shlRm8One (.mem (.based .bx .none))) [] ∧
    decode [0xD0#8, 0xA8#8, 0x78#8, 0x56#8] = .instr (.shrRm8One (.mem (.based .bxSi (.d16 0x5678#16)))) [] ∧
    decode [0xD0#8, 0xBA#8, 0x01#8, 0x80#8] = .instr (.sarRm8One (.mem (.based .bpSi (.d16 0x8001#16)))) [] := by decide

theorem test_decode_shift8_cl :
    decode [0xD2#8, 0x86#8, 0x00#8, 0x00#8] = .instr (.rolRm8Cl (.mem (.based .bp (.d16 0x0000#16)))) [] ∧
    decode [0xD2#8, 0x0E#8, 0x34#8, 0x12#8] = .instr (.rorRm8Cl (.mem (.direct 0x1234#16))) [] ∧
    decode [0xD2#8, 0x51#8, 0x10#8] = .instr (.rclRm8Cl (.mem (.based .bxDi (.d8 0x10#8)))) [] ∧
    decode [0xD2#8, 0x5D#8, 0x7F#8] = .instr (.rcrRm8Cl (.mem (.based .di (.d8 0x7F#8)))) [] ∧
    decode [0xD2#8, 0x66#8, 0xFE#8] = .instr (.shlRm8Cl (.mem (.based .bp (.d8 0xFE#8)))) [] ∧
    decode [0xD2#8, 0x2B#8] = .instr (.shrRm8Cl (.mem (.based .bpDi .none))) [] ∧
    decode [0xD2#8, 0x3C#8] = .instr (.sarRm8Cl (.mem (.based .si .none))) [] := by decide

theorem test_decode_shift8_imm :
    decode [0xC0#8, 0xC5#8, 0x21#8] = .instr (.rolRm8Imm8 (.reg .ch) 0x21#8) [] ∧
    decode [0xC0#8, 0xCE#8, 0x21#8] = .instr (.rorRm8Imm8 (.reg .dh) 0x21#8) [] ∧
    decode [0xC0#8, 0xD7#8, 0x21#8] = .instr (.rclRm8Imm8 (.reg .bh) 0x21#8) [] ∧
    decode [0xC0#8, 0xD8#8, 0x21#8] = .instr (.rcrRm8Imm8 (.reg .al) 0x21#8) [] ∧
    decode [0xC0#8, 0xE1#8, 0x21#8] = .instr (.shlRm8Imm8 (.reg .cl) 0x21#8) [] ∧
    decode [0xC0#8, 0xEA#8, 0x21#8] = .instr (.shrRm8Imm8 (.reg .dl) 0x21#8) [] ∧
    decode [0xC0#8, 0xFB#8, 0x21#8] = .instr (.sarRm8Imm8 (.reg .bl) 0x21#8) [] := by decide

theorem test_decode_shift16_one :
    decode [0xD1#8, 0x86#8, 0x00#8, 0x00#8] = .instr (.rolRm16One (.mem (.based .bp (.d16 0x0000#16)))) [] ∧
    decode [0xD1#8, 0x0E#8, 0x34#8, 0x12#8] = .instr (.rorRm16One (.mem (.direct 0x1234#16))) [] ∧
    decode [0xD1#8, 0x51#8, 0x10#8] = .instr (.rclRm16One (.mem (.based .bxDi (.d8 0x10#8)))) [] ∧
    decode [0xD1#8, 0x5D#8, 0x7F#8] = .instr (.rcrRm16One (.mem (.based .di (.d8 0x7F#8)))) [] ∧
    decode [0xD1#8, 0x66#8, 0xFE#8] = .instr (.shlRm16One (.mem (.based .bp (.d8 0xFE#8)))) [] ∧
    decode [0xD1#8, 0x2B#8] = .instr (.shrRm16One (.mem (.based .bpDi .none))) [] ∧
    decode [0xD1#8, 0x3C#8] = .instr (.sarRm16One (.mem (.based .si .none))) [] := by decide

theorem test_decode_shift16_cl :
    decode [0xD3#8, 0x07#8] = .instr (.rolRm16Cl (.mem (.based .bx .none))) [] ∧
    decode [0xD3#8, 0x88#8, 0x78#8, 0x56#8] = .instr (.rorRm16Cl (.mem (.based .bxSi (.d16 0x5678#16)))) [] ∧
    decode [0xD3#8, 0x92#8, 0x01#8, 0x80#8] = .instr (.rclRm16Cl (.mem (.based .bpSi (.d16 0x8001#16)))) [] ∧
    decode [0xD3#8, 0x9E#8, 0x00#8, 0x00#8] = .instr (.rcrRm16Cl (.mem (.based .bp (.d16 0x0000#16)))) [] ∧
    decode [0xD3#8, 0x26#8, 0x34#8, 0x12#8] = .instr (.shlRm16Cl (.mem (.direct 0x1234#16))) [] ∧
    decode [0xD3#8, 0x69#8, 0x10#8] = .instr (.shrRm16Cl (.mem (.based .bxDi (.d8 0x10#8)))) [] ∧
    decode [0xD3#8, 0x7D#8, 0x7F#8] = .instr (.sarRm16Cl (.mem (.based .di (.d8 0x7F#8)))) [] := by decide

theorem test_decode_shift16_imm :
    decode [0xC1#8, 0xC4#8, 0x21#8] = .instr (.rolRm16Imm8 (.reg .sp) 0x21#8) [] ∧
    decode [0xC1#8, 0xCD#8, 0x21#8] = .instr (.rorRm16Imm8 (.reg .bp) 0x21#8) [] ∧
    decode [0xC1#8, 0xD6#8, 0x21#8] = .instr (.rclRm16Imm8 (.reg .si) 0x21#8) [] ∧
    decode [0xC1#8, 0xDF#8, 0x21#8] = .instr (.rcrRm16Imm8 (.reg .di) 0x21#8) [] ∧
    decode [0xC1#8, 0xE0#8, 0x21#8] = .instr (.shlRm16Imm8 (.reg .ax) 0x21#8) [] ∧
    decode [0xC1#8, 0xE9#8, 0x21#8] = .instr (.shrRm16Imm8 (.reg .cx) 0x21#8) [] ∧
    decode [0xC1#8, 0xFA#8, 0x21#8] = .instr (.sarRm16Imm8 (.reg .dx) 0x21#8) [] := by decide

/-! ### Small states -/

/-- The value `f` takes after a next state. -/
def after {α : Type} (o : Out) (f : State → α) : Option α :=
  match o with
  | .next t => some (f t)
  | _ => none

/-- Why an outcome is refused. -/
def refusal (o : Out) : Option Refusal :=
  match o with
  | .refused r => some r
  | _ => none

/-- Real mode, CS 1000H, SS 2000H, DS 3000H, ES 4000H, SP 0100H, BX 0010H, at offset 0100H of an instruction of 2 bytes. -/
def real : State :=
  { State.reset with
    regs := { State.reset.regs with sp := 0x0100#16, bx := 0x0010#16 }
    ip := 0x0100#16
    ip1 := 0x0102
    cs := { val := 0x1000#16, cache := SegCache.resetAt 0x010000#24 }
    ss := { val := 0x2000#16, cache := SegCache.resetAt 0x020000#24 }
    ds := { val := 0x3000#16, cache := SegCache.resetAt 0x030000#24 }
    es := { val := 0x4000#16, cache := SegCache.resetAt 0x040000#24 } }

/-- `real` with some bytes of memory. -/
def realWith (a : Nat) (l : List Byte) : State := { real with mem := placeBytes real.mem a l }

/-- `real` at some bytes, on a platform where XCHG of words cannot be locked. -/
def unlockableXchg (l : List Byte) : State :=
  { realWith 0x010100 l with platform := { real.platform with unlockable := [[0x87#8]] } }

/-- A valid code entry, readable, at a level. -/
def codeEntry (base : Base) (level : BitVec 2) : SegCache :=
  { SegCache.resetAt base with dpl := level, code := true, writable := false, readable := true }

/-- A valid writable data entry at a level. -/
def dataEntry (base : Base) (level : BitVec 2) : SegCache := { SegCache.resetAt base with dpl := level }

/-- Tables for protected mode: a GDT at 001000H, an LDT at 001800H, an IDT at 002000H, a TSS at 003000H. -/
def tables : Memory :=
  let gdt0 := placeBytes [] 0x1008 [0xFF#8, 0xFF#8, 0x00#8, 0x00#8, 0x04#8, 0x9A#8]           -- 08H code, dpl 0
  let gdt1 := placeBytes gdt0 0x1010 [0xFF#8, 0xFF#8, 0x00#8, 0x00#8, 0x02#8, 0x93#8]         -- 10H data, dpl 0
  let gdt2 := placeBytes gdt1 0x1018 [0xFF#8, 0xFF#8, 0x00#8, 0x00#8, 0x01#8, 0xFA#8]         -- 18H code, dpl 3
  let gdt3 := placeBytes gdt2 0x1020 [0xFF#8, 0xFF#8, 0x00#8, 0x00#8, 0x05#8, 0xF2#8]         -- 20H data, dpl 3
  let gdt4 := placeBytes gdt3 0x1028 [0xFF#8, 0xFF#8, 0x00#8, 0x00#8, 0x06#8, 0x9E#8]         -- 28H conforming code, dpl 0
  let gdt5 := placeBytes gdt4 0x1030 [0xFF#8, 0xFF#8, 0x00#8, 0x00#8, 0x05#8, 0x72#8]         -- 30H data, dpl 3, absent
  let gdt6 := placeBytes gdt5 0x1038 [0xFF#8, 0xFF#8, 0x00#8, 0x00#8, 0x05#8, 0xF8#8]         -- 38H unreadable code, dpl 3
  let gdt7 := placeBytes gdt6 0x1040 [0xFF#8, 0xFF#8, 0x00#8, 0x00#8, 0x05#8, 0x12#8]         -- 40H data, dpl 0, absent
  let gdt8 := placeBytes gdt7 0x1048 [0xFF#8, 0xFF#8, 0x00#8, 0x00#8, 0x05#8, 0xD2#8]         -- 48H data, dpl 2
  let gdt9 := placeBytes gdt8 0x1050 [0xFF#8, 0xFF#8, 0x00#8, 0x00#8, 0x05#8, 0xFE#8]         -- 50H conforming code, dpl 3
  let ldt := placeBytes gdt9 0x1800 [0xFF#8, 0x0F#8, 0x00#8, 0x00#8, 0x07#8, 0xF2#8]          -- 04H data, dpl 3
  let idt0 := placeBytes ldt 0x2000 [0x00#8, 0x10#8, 0x08#8, 0x00#8, 0x00#8, 0x86#8]          -- 0 interrupt gate, dpl 0
  let idt1 := placeBytes idt0 0x2060 [0x00#8, 0x1C#8, 0x08#8, 0x00#8, 0x00#8, 0x86#8]         -- 12
  let idt2 := placeBytes idt1 0x2068 [0x00#8, 0x1D#8, 0x08#8, 0x00#8, 0x00#8, 0x86#8]         -- 13
  let idt3 := placeBytes idt2 0x2080 [0x00#8, 0x20#8, 0x08#8, 0x00#8, 0x00#8, 0x87#8]         -- 16 trap gate
  let idt4 := placeBytes idt3 0x2108 [0x00#8, 0x21#8, 0x08#8, 0x00#8, 0x00#8, 0xE6#8]         -- 21H interrupt gate, dpl 3
  let idt5 := placeBytes idt4 0x2110 [0x00#8, 0x22#8, 0x18#8, 0x00#8, 0x00#8, 0xE7#8]         -- 22H trap gate to level 3
  let idt6 := placeBytes idt5 0x2118 [0x00#8, 0x23#8, 0x28#8, 0x00#8, 0x00#8, 0xE7#8]         -- 23H trap gate, conforming
  let idt7 := placeBytes idt6 0x2120 [0x00#8, 0x24#8, 0x08#8, 0x00#8, 0x00#8, 0xE4#8]         -- 24H no gate type
  placeBytes idt7 0x3000 [0x00#8, 0x00#8, 0x00#8, 0x02#8, 0x10#8, 0x00#8]                     -- SP 0200H, SS 0010H

/-- Protected mode at level 3 with `tables`, IOPL 0, the ES entry invalid. -/
def user : State :=
  { real with
    msw := 0xFFF1#16
    cs := { val := 0x001B#16, cache := codeEntry 0x010000#24 3#2 }
    ss := { val := 0x0023#16, cache := dataEntry 0x020000#24 3#2 }
    ds := { val := 0x0023#16, cache := dataEntry 0x030000#24 3#2 }
    es := { val := 0x0000#16, cache := { dataEntry 0x040000#24 3#2 with valid := false } }
    gdtr := { base := 0x001000#24, limit := 0x00FF#16 }
    idtr := { base := 0x002000#24, limit := 0x01FF#16 }
    ldtr := { val := 0x0060#16, base := 0x001800#24, limit := 0x0007#16, valid := true }
    tr := { val := 0x0068#16, base := 0x003000#24, limit := 0x002B#16, valid := true }
    mem := tables }

/-- Protected mode at level 0 with `tables`. -/
def system : State :=
  { user with
    cs := { val := 0x0008#16, cache := codeEntry 0x010000#24 0#2 }
    ss := { val := 0x0010#16, cache := dataEntry 0x020000#24 0#2 } }

/-- `user` with DS an entry that cannot be written. -/
def readOnly : State := { user with ds := { user.ds with cache := { user.ds.cache with writable := false } } }

/-- The operand [BX]. -/
def atBx : MemOperand := .based .bx .none

/-- A state with a value in a general register. -/
def withReg (s : State) (r : Reg16) (v : Word) : State := { s with regs := s.regs.set16 r v }

/-- A state with a flag word. -/
def withFlags (s : State) (v : Word) : State := { s with flags := Flags.ofWord v }

/-! ### Addresses and memory (95_test_vectors.md 2.1) -/

theorem test_states_are_canonical : tables.wf = true ∧ State.reset.mem.wf = true := by decide +kernel

theorem test_lin_limit :
    lin real .ds 0xFFFF 1 .read = .ok 0x03FFFF ∧ lin user .ds 0xFFFF 2 .read = .error protectionFault ∧
    lin user .ss 0xFFFF 2 .read = .error (.trap .stackFault (some 0#16)) ∧
    lin real .ss 0xFFFF 2 .read = .error (.refuse .realModeStackLimit) ∧
    lin real .ds 0xFFFF 2 .read = .error protectionFault := by decide +kernel

theorem test_lin_expand_down :
    let s := { user with ds := { user.ds with cache := { dataEntry 0x020000#24 3#2 with limit := 0x0FFF#16, expandDown := true } } }
    lin s .ds 0x0FFF 1 .read = .error protectionFault ∧ lin s .ds 0x1000 2 .read = .ok 0x021000 ∧
    lin s .ds 0xFFFF 2 .read = .error protectionFault ∧ lin s .ds 0xFFFE 2 .read = .ok 0x02FFFE := by decide +kernel

theorem test_lin_top_of_memory :
    let s := { real with ds := { real.ds with cache := SegCache.resetAt 0xFFFFF0#24 } }
    lin s .ds 0x000F 1 .read = .ok 0xFFFFFF ∧ lin s .ds 0x0010 1 .read = .error (.refuse .beyondPhysicalSpace) ∧
    lin s .ds 0x000F 2 .write = .error (.refuse .beyondPhysicalSpace) := by decide +kernel

theorem test_word_low_byte_first :
    ((real.setWord 0x030010 0x8001#16).byte 0x030010, (real.setWord 0x030010 0x8001#16).byte 0x030011) = (0x01#8, 0x80#8) := by
  decide +kernel

/-! ### Segment registers, loads and stores (2.2) -/

theorem test_mov_es_real :
    after (exec (.movSregRm16 .es (.reg .ax)) (withReg real .ax 0x1234#16)) (fun t => (t.es.val, t.es.cache.base, t.ip)) =
      some (0x1234#16, 0x012340#24, 0x0102#16) ∧
    after (exec (.movSregRm16 .es (.reg .ax)) (withReg real .ax 0xFFFF#16)) (fun t => t.es.cache.base) = some 0x0FFFF0#24 := by
  decide +kernel

theorem test_mov_es_null :
    after (exec (.movSregRm16 .es (.reg .ax)) (withReg user .ax 0x0003#16)) (fun t => (t.es.val, t.es.cache.valid, t.ip)) =
      some (0x0003#16, false, 0x0102#16) := by decide +kernel

theorem test_mov_es_level_fault :
    (loadSeg user .es 0x0013#16) = .error (.trap .generalProtection (some 0x0010#16)) ∧
    (loadSeg user .es 0x1237#16) = .error (.trap .generalProtection (some 0x1234#16)) ∧
    (loadSeg user .es 0xFFFF#16) = .error (.trap .generalProtection (some 0xFFFC#16)) := by decide +kernel

theorem test_mov_es_protected :
    after (exec (.movSregRm16 .es (.reg .ax)) (withReg system .ax 0x0010#16))
      (fun t => (t.es.val, t.es.cache.base, t.es.cache.limit, t.es.cache.valid, t.es.cache.writable, t.byte 0x1015)) =
      some (0x0010#16, 0x020000#24, 0xFFFF#16, true, true, 0x93#8) := by decide +kernel

theorem test_pop_segments :
    let s := realWith 0x020100 [0x34#8, 0x12#8]
    after (exec .popEs s) (fun t => (t.es.val, t.regs.sp, t.intShadow)) = some (0x1234#16, 0x0102#16, false) ∧
    after (exec .popDs s) (fun t => (t.ds.val, t.regs.sp, t.intShadow)) = some (0x1234#16, 0x0102#16, false) ∧
    after (exec .popSs s) (fun t => (t.ss.val, t.regs.sp, t.intShadow)) = some (0x1234#16, 0x0102#16, true) := by decide +kernel

theorem test_far_pointers :
    let s := realWith 0x030010 [0x34#8, 0x12#8, 0x00#8, 0x50#8]
    after (exec (.les .ax atBx) s) (fun t => (t.regs.ax, t.es.val, t.es.cache.base, t.ds.val)) =
      some (0x1234#16, 0x5000#16, 0x050000#24, 0x3000#16) ∧
    after (exec (.lds .ax atBx) s) (fun t => (t.regs.ax, t.ds.val, t.ds.cache.base, t.es.val)) =
      some (0x1234#16, 0x5000#16, 0x050000#24, 0x4000#16) := by decide +kernel

theorem test_far_pointer_fault_keeps_register :
    loadFarPointer { user with mem := placeBytes tables 0x030010 [0x34#8, 0x12#8, 0x00#8, 0x40#8] } .es .ax atBx =
      .error (.trap .generalProtection (some 0x4000#16)) := by decide +kernel

theorem test_mov_loads :
    let s := realWith 0x030010 [0x01#8, 0x80#8]
    after (exec (.movR16Rm16 .ax (.mem atBx)) s) (fun t => t.regs.ax) = some 0x8001#16 ∧
    after (exec (.movR8Rm8 .ah (.mem atBx)) s) (fun t => t.regs.ax) = some 0x0100#16 ∧
    after (exec (.movR16Rm16 .ax (.mem atBx)) { s with override := some .es }) (fun t => (t.regs.ax, t.override)) =
      some (0x0000#16, none) := by decide +kernel

theorem test_mov_stores :
    after (exec (.movRm8R8 (.mem atBx) .al) (withReg real .ax 0x12FB#16)) (fun t => (t.byte 0x030010, t.superseded)) =
      some (0xFB#8, [(0x030010, 0x00#8)]) ∧
    after (exec (.movRm16R16 (.mem atBx) .ax) (withReg real .ax 0x12FB#16)) (fun t => t.word 0x030010) = some 0x12FB#16 ∧
    after (exec (.movRm16Sreg (.reg .cx) .es) user) (fun t => t.regs.cx) = some 0x0000#16 := by decide +kernel

/-! ### LOADALL (2.3, program P4) -/

theorem test_image_cache :
    let s := realWith 0x000836 [0x40#8, 0x23#8, 0x41#8, 0xF3#8, 0xFF#8, 0x7F#8, 0x00#8, 0x00#8, 0x01#8, 0xFB#8, 0xFF#8, 0xFF#8]
    after (exec .loadall s) (fun t => (t.es.cache, t.cs.cache)) =
      some ({ dataEntry 0x412340#24 3#2 with limit := 0x7FFF#16 }, codeEntry 0x010000#24 3#2) := by decide +kernel

theorem test_loadall :
    let s := realWith 0x000818 [0x02#8, 0x02#8, 0x00#8, 0x02#8]
    after (exec .loadall s) (fun t => (t.flags.toWord, t.ip, t.msw, t.regs.sp)) =
      some (0x0202#16, 0x0200#16, 0x0000#16, 0x0000#16) ∧
    after (exec .loadall user) (fun t => t.ip) = some 0x1D00#16 := by decide +kernel

/-! ### Open parameters (00_scope.md R10) -/

/-- LOADALL from an area elsewhere, in which a cache entry is limit, base, access byte and the flag word lies at 0900H. -/
def otherImage : State :=
  { realWith 0x000900 [0x02#8, 0x02#8, 0xFF#8, 0x7F#8, 0x40#8, 0x23#8, 0x41#8, 0xF3#8] with
    platform := { real.platform with
      loadall := { LoadallImage.default with flags := 0x900, esEntry := 0x902, base := 2, rights := 5, limit := 0 } } }

theorem test_loadall_layout :
    after (exec .loadall otherImage) (fun t => (t.flags.toWord, t.es.cache)) =
      some (0x0202#16, { dataEntry 0x412340#24 3#2 with limit := 0x7FFF#16 }) := by decide +kernel

/-- `system` on a platform whose descriptors begin with the access byte, its bits in reverse order: at 08H a writable data
segment of level 1. -/
def otherFormat : State :=
  { system with
    mem := placeBytes [] 0x1008 [0x4D#8, 0x00#8, 0x00#8, 0x05#8, 0xFF#8, 0x0F#8]
    platform := { system.platform with
      format := { DescFormat.default with
        rights := 0, base := 1, limit := 4
        bits := { present := 0, dplHigh := 1, dplLow := 2, segment := 3, executable := 4, expandDown := 5, writable := 6, accessed := 7 } } } }

theorem test_descriptor_format :
    after (exec (.movSregRm16 .es (.reg .ax)) (withReg otherFormat .ax 0x0008#16)) (fun t => (t.es.cache, t.byte 0x1008)) =
      some ({ dataEntry 0x050000#24 1#2 with limit := 0x0FFF#16 }, 0xCD#8) := by decide +kernel

theorem test_rom :
    let s := { realWith 0x030010 [0x5A#8] with platform := { real.platform with rom := [(0x030010, 0x030010)] } }
    after (exec (.movRm16R16 (.mem atBx) .ax) (withReg s .ax 0x1234#16)) (fun t => (t.byte 0x030010, t.byte 0x030011)) =
      some (0x5A#8, 0x12#8) := by decide +kernel

/-! ### Interrupts, exceptions, returns (2.4) -/

theorem test_int_real :
    let s := withFlags { realWith 0x000084 [0x5B#8, 0xE0#8, 0x00#8, 0xF0#8] with ip := 0x0300#16, ip1 := 0x0302 } 0x0202#16
    after (exec (.intImm8 0x21#8) s) (fun t => (t.ip, t.cs.val, t.cs.cache.base, t.flags.toWord, t.regs.sp)) =
      some (0xE05B#16, 0xF000#16, 0x0F0000#24, 0x0002#16, 0x00FA#16) ∧
    after (exec (.intImm8 0x21#8) s) (fun t => (t.word 0x0200FE, t.word 0x0200FC, t.word 0x0200FA)) =
      some (0x0202#16, 0x1000#16, 0x0302#16) := by decide +kernel

theorem test_int3_real :
    after (exec .int3 (realWith 0x00000C [0x5B#8, 0xE0#8, 0x00#8, 0xF0#8])) (fun t => (t.ip, t.cs.val, t.word 0x0200FA)) =
      some (0xE05B#16, 0xF000#16, 0x0102#16) := by decide +kernel

theorem test_int_gate_privilege :
    softwareInterrupt user 0 = .error (.trap .generalProtection (some 0x0002#16)) ∧
    softwareInterrupt user 0xFF = .error (.trap .generalProtection (some 0x07FA#16)) ∧
    softwareInterrupt { user with idtr := { user.idtr with limit := 0x00FF#16 } } 0x21 =
      .error (.trap .generalProtection (some 0x010A#16)) := by decide +kernel

-- gate 21H leads to level 0: SS:SP from the TSS, then old SS, old SP, flags, CS, the return offset
theorem test_int_inner_level :
    after (exec (.intImm8 0x21#8) user) (fun t => (t.cs.val, t.ip, t.ss.val, t.regs.sp, t.cpl)) =
      some (0x0008#16, 0x2100#16, 0x0010#16, 0x01F6#16, 0#2) ∧
    after (exec (.intImm8 0x21#8) user)
      (fun t => (t.word 0x0201FE, t.word 0x0201FC, t.word 0x0201FA, t.word 0x0201F8, t.word 0x0201F6)) =
      some (0x0023#16, 0x0100#16, 0x0002#16, 0x001B#16, 0x0102#16) := by decide +kernel

-- exception 13 of a null reference at level 0: the error code lies last, below the address of the instruction itself
theorem test_exception_same_level :
    after (exec (.movR16Rm16 .ax (.mem atBx)) { system with override := some .es })
      (fun t => (t.ip, t.regs.sp, t.word 0x0200FA, t.word 0x0200F8)) =
      some (0x1D00#16, 0x00F8#16, 0x0100#16, 0x0000#16) := by decide +kernel

theorem test_iret_real :
    after (exec .iret (realWith 0x020100 [0x02#8, 0x03#8, 0x00#8, 0x11#8, 0x02#8, 0x72#8]))
      (fun t => (t.ip, t.cs.val, t.cs.cache.base, t.flags.toWord, t.regs.sp)) =
      some (0x0302#16, 0x1100#16, 0x011000#24, 0x0202#16, 0x0106#16) := by decide +kernel

theorem test_iret_outer_level :
    after (exec .iret { system with
        mem := placeBytes tables 0x020100 [0x34#8, 0x12#8, 0x1B#8, 0x00#8, 0x02#8, 0x02#8, 0x00#8, 0x04#8, 0x23#8, 0x00#8]
        ds := { val := 0x0010#16, cache := dataEntry 0x020000#24 0#2 } })
      (fun t => ((t.ip, t.cs.val, t.cpl), t.ss.val, t.regs.sp, t.ds.val, t.ds.cache.valid)) =
      some ((0x1234#16, 0x001B#16, 3#2), 0x0023#16, 0x0400#16, 0x0000#16, false) := by decide +kernel

/-! ### The flag word (2.5, program P5) -/

theorem test_pushf :
    after (exec .pushf (withFlags user 0x0202#16)) (fun t => (t.word 0x0200FE, t.regs.sp)) = some (0x0202#16, 0x00FE#16) := by
  decide +kernel

/-- The flag word after a load at a level of protected mode. -/
def loaded (cpl : BitVec 2) (old popped : Word) : Word := ((Flags.ofWord old).load true cpl false popped).toWord

theorem test_load_flags :
    loaded 3#2 0x0002#16 0x7202#16 = 0x4002#16 ∧ loaded 3#2 0x0202#16 0x0002#16 = 0x0202#16 ∧
    loaded 3#2 0x3002#16 0x0202#16 = 0x3202#16 ∧ loaded 1#2 0x1002#16 0x3202#16 = 0x1202#16 ∧
    loaded 0#2 0x0002#16 0x7202#16 = 0x7202#16 ∧ loaded 0#2 0x3202#16 0x0002#16 = 0x0002#16 ∧
    loaded 3#2 0x0002#16 0x0CD5#16 = 0x0CD7#16 ∧ loaded 3#2 0x0002#16 0x0ED5#16 = 0x0CD7#16 ∧
    loaded 0#2 0x0002#16 0xFFFF#16 = 0x7FD7#16 := by decide +kernel

theorem test_popf_real :
    after (exec .popf (realWith 0x020100 [0x02#8, 0x72#8])) (fun t => (t.flags.toWord, t.regs.sp)) =
      some (0x0202#16, 0x0102#16) := by decide +kernel

theorem test_sti_cli :
    after (exec .sti real) (fun t => t.flags.toWord) = some 0x0202#16 ∧
    after (exec .cli (withFlags system 0x0202#16)) (fun t => t.flags.toWord) = some 0x0002#16 := by decide +kernel

/-! ### IOPL, ports, prefixes (2.6, E9, E16) -/

theorem test_iopl :
    ioplCheck (withFlags user 0x2002#16) = .error protectionFault ∧ ioplCheck (withFlags user 0x3002#16) = .ok () ∧
    ioplCheck system = .ok () ∧ ioplCheck real = .ok () := by decide +kernel

theorem test_iopl_traps :
    after (exec .cli user) (fun t => (t.ip, t.cs.val, t.word 0x0201F4, t.word 0x0201F6)) =
      some (0x1D00#16, 0x0008#16, 0x0000#16, 0x0100#16) ∧
    after (exec .lock user) (fun t => t.ip) = some 0x1D00#16 ∧
    after (exec (.outImm8Al 0x60#8) user) (fun t => t.ip) = some 0x1D00#16 := by decide +kernel

theorem test_reserved_ports :
    refusal (exec (.inAlImm8 0xF8#8) real) = some .reservedPort ∧ refusal (exec (.outImm8Al 0xFF#8) real) = some .reservedPort ∧
    refusal (exec (.inAxImm8 0xF7#8) real) = some .reservedPort ∧
    refusal (exec .outDxAx (withReg real .dx 0x00F7#16)) = some .reservedPort ∧
    refusal (exec (.inAlImm8 0xF7#8) real) = none ∧ refusal (exec .inAlDx (withReg real .dx 0x0100#16)) = none := by
  decide +kernel

theorem test_out :
    after (exec (.outImm8Al 0x60#8) (withReg real .ax 0x1234#16)) (fun t => t.ioLog) = some [.writeByte 0x0060#16 0x34#8] ∧
    after (exec .outDxAx (withReg (withReg real .ax 0x1234#16) .dx 0x03F8#16)) (fun t => t.ioLog) =
      some [.writeWord 0x03F8#16 0x1234#16] := by decide +kernel

theorem test_prefixes :
    after (exec .esPrefix real) (fun t => (t.override, t.prefixLen, t.ip)) = some (some .es, 1, 0x0100#16) ∧
    after (exec .csPrefix real) (fun t => t.override) = some (some .cs) ∧
    after (exec .ssPrefix real) (fun t => t.override) = some (some .ss) ∧
    after (exec .dsPrefix real) (fun t => t.override) = some (some .ds) ∧
    after (exec .lock real) (fun t => (t.lock, t.prefixLen)) = some (true, 1) := by decide +kernel

/-! ### The 80287 (2.11) -/

/-- `real` with another state of the 80287. -/
def numericState (b : Busy) (err : Bool) : State := { real with numeric := { real.numeric with busy := b, errorPending := err } }

theorem test_numeric_not_available :
    after (exec (.esc 1#3 0#3 (.mem atBx)) { real with msw := 0xFFF8#16 }) (fun t => (t.word 0x0200FA, t.regs.sp)) =
      some (0x0100#16, 0x00FA#16) ∧
    escapeAvailable { real with msw := 0xFFF4#16 } = .error (.trap .extensionNotAvailable none) := by decide +kernel

theorem test_stored_addresses :
    numericAddress .real 0x1000#16 0x0100#16 = .physical 0x10100#20 ∧
    numericAddress .real 0xFFFF#16 0x0010#16 = .physical 0x00000#20 ∧
    numericAddress .prot 0x3000#16 0x0010#16 = .virt 0x3000#16 0x0010#16 := by decide

theorem test_numeric_control :
    after (exec .fninit (numericState .stuck true)) (fun t => (t.numeric.busy, t.numeric.errorPending, t.numeric.mode)) =
      some (.idle, false, .real) ∧
    (Numeric.reset.top, Numeric.masks { Numeric.reset with control := 0x0340#16 }) = (0#3, 0#6) ∧
    Numeric.top { Numeric.reset with status := 0x2800#16 } = 5#3 ∧
    after (exec .fsetpm real) (fun t => t.numeric.mode) = some .prot ∧
    refusal (exec .fsetpm { real with numeric := { real.numeric with busy := .stuck } }) = some .coprocessorStuck := by
  decide +kernel

theorem test_wait :
    after (exec .wait { real with numeric := { real.numeric with busy := .busy } }) (fun t => (t.numeric.busy, t.ip)) =
      some (.idle, 0x0102#16) ∧
    refusal (exec .wait { real with numeric := { real.numeric with busy := .stuck } }) = some .coprocessorStuck ∧
    after (exec .wait { system with numeric := { real.numeric with errorPending := true } }) (fun t => (t.ip, t.word 0x0200FA)) =
      some (0x2000#16, 0x0100#16) := by decide +kernel

theorem test_escape_checks_operand :
    operandAddress { user with override := some .es } atBx 2 .read = .error protectionFault ∧
    operandAddress (withReg { user with override := some .ss } .bx 0xFFFF#16) atBx 2 .read =
      .error (.trap .stackFault (some 0#16)) := by decide +kernel

/-! ### Integer instructions (2.7 to 2.10, 2.12) -/

theorem test_push_sp :
    after (exec .pushSp real) (fun t => (t.word 0x0200FE, t.regs.sp)) = some (0x0100#16, 0x00FE#16) ∧
    after (exec .pushSp (withReg real .sp 0x0000#16)) (fun t => (t.word 0x02FFFE, t.regs.sp)) = some (0x0000#16, 0xFFFE#16) ∧
    push (withReg user .sp 0x0001#16) 0x0001#16 = .error (.trap .stackFault (some 0#16)) := by decide +kernel

/-- Result and carry of a shift or rotate of a byte. -/
def shifted8 (op : ShiftOp) (v count : Byte) (c : Bool) : Byte × Bool := shiftTimes op (shiftCount count) v c

/-- Result and carry of a shift or rotate of a word. -/
def shifted16 (op : ShiftOp) (v : Word) (count : Byte) (c : Bool) : Word × Bool := shiftTimes op (shiftCount count) v c

theorem test_rotates :
    shifted8 .rol 0x81#8 0x28#8 false = (0x81#8, true) ∧ shifted16 .rol 0x1234#16 0x04#8 false = (0x2341#16, true) ∧
    shifted8 .ror 0x81#8 0x09#8 false = (0xC0#8, true) ∧ shifted16 .ror 0x1234#16 0x24#8 false = (0x4123#16, false) ∧
    shifted8 .rcl 0x55#8 0x09#8 true = (0x55#8, true) ∧ shifted8 .rcl 0x01#8 0xFF#8 true = (0x18#8, false) ∧
    shifted16 .rcl 0x1234#16 0x04#8 true = (0x2348#16, true) ∧ shifted8 .rcr 0x01#8 0x02#8 false = (0x80#8, false) ∧
    shifted16 .rcr 0x1234#16 0x25#8 true = (0x4891#16, true) ∧ shifted8 .rcr 0xAA#8 0x09#8 true = (0xAA#8, true) := by
  decide +kernel

theorem test_shifts :
    shifted16 .shl 0x0001#16 0x0F#8 false = (0x8000#16, false) ∧ shifted16 .shl 0x0001#16 0x10#8 false = (0x0000#16, true) ∧
    shifted16 .shl 0x0001#16 0x11#8 false = (0x0000#16, false) ∧ shifted8 .shl 0xFF#8 0x08#8 false = (0x00#8, true) ∧
    shifted8 .shr 0x80#8 0x08#8 false = (0x00#8, true) ∧ shifted16 .shr 0xFFFF#16 0x1F#8 false = (0x0000#16, false) ∧
    shifted8 .sar 0x81#8 0x02#8 false = (0xE0#8, false) ∧ shifted8 .sar 0x80#8 0x1F#8 false = (0xFF#8, true) ∧
    shifted16 .sar 0x8000#16 0x2F#8 false = (0xFFFF#16, false) := by decide +kernel

/-- OF, SF, ZF and PF after a shift or rotate by one, from a flag word. -/
def flagsByOne {w : Nat} (op : ShiftOp) (v : BitVec w) (f : Word) : Bool × Bool × Bool × Bool :=
  let g := shiftFlags op (Flags.ofWord f) 0 1 v
  (g.ovf, g.sf, g.zf, g.pf)

theorem test_flags_by_one :
    flagsByOne .rol 0x81#8 0x0002#16 = (true, false, false, false) ∧ flagsByOne .ror 0x0001#16 0x00C6#16 = (true, true, true, true) ∧
    flagsByOne .rcl 0x80#8 0x0002#16 = (true, false, false, false) ∧ flagsByOne .rcr 0x0001#16 0x0003#16 = (true, false, false, false) ∧
    flagsByOne .shl 0xC0#8 0x0002#16 = (false, true, false, false) ∧ flagsByOne .shr 0x8001#16 0x0002#16 = (true, false, false, true) ∧
    flagsByOne .sar 0xFFFE#16 0x0002#16 = (false, true, false, true) := by decide +kernel

/-- AX 8081H, CX 0202H, CF clear. -/
def shiftState : State := withReg (withReg real .ax 0x8081#16) .cx 0x0202#16

/-- AL after a shift or rotate of AL. -/
def alAfter (i : Instr) : Option Byte := after (exec i shiftState) fun t => t.regs.get8 .al

/-- AX after a shift or rotate of AX. -/
def axAfter (i : Instr) : Option Word := after (exec i shiftState) fun t => t.regs.ax

theorem test_shift8_instructions :
    alAfter (.rolRm8One (.reg .al)) = some 0x03#8 ∧ alAfter (.rolRm8Cl (.reg .al)) = some 0x06#8 ∧
    alAfter (.rolRm8Imm8 (.reg .al) 0x22#8) = some 0x06#8 ∧
    alAfter (.rorRm8One (.reg .al)) = some 0xC0#8 ∧ alAfter (.rorRm8Cl (.reg .al)) = some 0x60#8 ∧
    alAfter (.rorRm8Imm8 (.reg .al) 0x22#8) = some 0x60#8 ∧
    alAfter (.rclRm8One (.reg .al)) = some 0x02#8 ∧ alAfter (.rclRm8Cl (.reg .al)) = some 0x05#8 ∧
    alAfter (.rclRm8Imm8 (.reg .al) 0x22#8) = some 0x05#8 ∧
    alAfter (.rcrRm8One (.reg .al)) = some 0x40#8 ∧ alAfter (.rcrRm8Cl (.reg .al)) = some 0xA0#8 ∧
    alAfter (.rcrRm8Imm8 (.reg .al) 0x22#8) = some 0xA0#8 ∧
    alAfter (.shlRm8One (.reg .al)) = some 0x02#8 ∧ alAfter (.shlRm8Cl (.reg .al)) = some 0x04#8 ∧
    alAfter (.shlRm8Imm8 (.reg .al) 0x22#8) = some 0x04#8 ∧
    alAfter (.shrRm8One (.reg .al)) = some 0x40#8 ∧ alAfter (.shrRm8Cl (.reg .al)) = some 0x20#8 ∧
    alAfter (.shrRm8Imm8 (.reg .al) 0x22#8) = some 0x20#8 ∧
    alAfter (.sarRm8One (.reg .al)) = some 0xC0#8 ∧ alAfter (.sarRm8Cl (.reg .al)) = some 0xE0#8 ∧
    alAfter (.sarRm8Imm8 (.reg .al) 0x22#8) = some 0xE0#8 := by decide +kernel

theorem test_shift16_instructions :
    axAfter (.rolRm16One (.reg .ax)) = some 0x0103#16 ∧ axAfter (.rolRm16Cl (.reg .ax)) = some 0x0206#16 ∧
    axAfter (.rolRm16Imm8 (.reg .ax) 0x22#8) = some 0x0206#16 ∧
    axAfter (.rorRm16One (.reg .ax)) = some 0xC040#16 ∧ axAfter (.rorRm16Cl (.reg .ax)) = some 0x6020#16 ∧
    axAfter (.rorRm16Imm8 (.reg .ax) 0x22#8) = some 0x6020#16 ∧
    axAfter (.rclRm16One (.reg .ax)) = some 0x0102#16 ∧ axAfter (.rclRm16Cl (.reg .ax)) = some 0x0205#16 ∧
    axAfter (.rclRm16Imm8 (.reg .ax) 0x22#8) = some 0x0205#16 ∧
    axAfter (.rcrRm16One (.reg .ax)) = some 0x4040#16 ∧ axAfter (.rcrRm16Cl (.reg .ax)) = some 0xA020#16 ∧
    axAfter (.rcrRm16Imm8 (.reg .ax) 0x22#8) = some 0xA020#16 ∧
    axAfter (.shlRm16One (.reg .ax)) = some 0x0102#16 ∧ axAfter (.shlRm16Cl (.reg .ax)) = some 0x0204#16 ∧
    axAfter (.shlRm16Imm8 (.reg .ax) 0x22#8) = some 0x0204#16 ∧
    axAfter (.shrRm16One (.reg .ax)) = some 0x4040#16 ∧ axAfter (.shrRm16Cl (.reg .ax)) = some 0x2020#16 ∧
    axAfter (.shrRm16Imm8 (.reg .ax) 0x22#8) = some 0x2020#16 ∧
    axAfter (.sarRm16One (.reg .ax)) = some 0xC040#16 ∧ axAfter (.sarRm16Cl (.reg .ax)) = some 0xE020#16 ∧
    axAfter (.sarRm16Imm8 (.reg .ax) 0x22#8) = some 0xE020#16 := by decide +kernel

/-- The result and CF, PF, AF, ZF, SF, OF of ADC or SBB. -/
def carried {w : Nat} (op : CarryOp) (a b : BitVec w) (c : Bool) : BitVec w × List Bool :=
  let g := op.flags { Flags.reset with cf := c } a b
  (op.result a b c, [g.cf, g.pf, g.af, g.zf, g.sf, g.ovf])

theorem test_adc :
    carried .adc 0xFF#8 0x00#8 true = (0x00#8, [true, true, true, true, false, false]) ∧
    carried .adc 0x7F#8 0x00#8 true = (0x80#8, [false, false, true, false, true, true]) ∧
    carried .adc 0x7FFF#16 0x0001#16 false = (0x8000#16, [false, true, true, false, true, true]) ∧
    carried .adc 0xFFFF#16 0xFFFF#16 true = (0xFFFF#16, [true, true, true, false, true, false]) ∧
    carried .adc 0x80#8 0x80#8 false = (0x00#8, [true, true, false, true, false, true]) ∧
    carried .adc 0x1234#16 0x0FCC#16 true = (0x2201#16, [false, false, true, false, false, false]) := by decide +kernel

theorem test_sbb :
    carried .sbb 0x0000#16 0x0000#16 true = (0xFFFF#16, [true, true, true, false, true, false]) ∧
    carried .sbb 0x80#8 0x01#8 false = (0x7F#8, [false, false, true, false, false, true]) ∧
    carried .sbb 0x00#8 0xFF#8 true = (0x00#8, [true, true, true, true, false, false]) ∧
    carried .sbb 0x1000#16 0x0001#16 true = (0x0FFE#16, [false, false, true, false, false, false]) ∧
    carried .sbb 0x7F#8 0xFF#8 false = (0x80#8, [true, false, false, false, true, true]) ∧
    carried .sbb 0x05#8 0x05#8 false = (0x00#8, [false, true, false, true, false, false]) := by decide +kernel

/-- AX 1234H, CX 0001H, CF set, the word at [BX] 5678H. -/
def carryState : State :=
  withFlags (withReg (withReg (realWith 0x030010 [0x78#8, 0x56#8]) .ax 0x1234#16) .cx 0x0001#16) 0x0003#16

/-- AX and the word at [BX] after an instruction. -/
def carriedTo (i : Instr) : Option (Word × Word) := after (exec i carryState) fun t => (t.regs.ax, t.word 0x030010)

theorem test_adc_forms :
    carriedTo (.adcRm8R8 (.mem atBx) .cl) = some (0x1234#16, 0x567A#16) ∧
    carriedTo (.adcRm16R16 (.reg .ax) .cx) = some (0x1236#16, 0x5678#16) ∧
    carriedTo (.adcR8Rm8 .al (.mem atBx)) = some (0x12AD#16, 0x5678#16) ∧
    carriedTo (.adcR16Rm16 .ax (.mem atBx)) = some (0x68AD#16, 0x5678#16) ∧
    carriedTo (.adcAlImm8 0xFF#8) = some (0x1234#16, 0x5678#16) ∧ carriedTo (.adcAxImm16 0x0101#16) = some (0x1336#16, 0x5678#16) ∧
    carriedTo (.adcRm8Imm8 (.mem atBx) 0x10#8) = some (0x1234#16, 0x5689#16) ∧
    carriedTo (.adcRm16Imm16 (.mem atBx) 0x0100#16) = some (0x1234#16, 0x5779#16) ∧
    carriedTo (.adcRm16SextImm8 (.mem atBx) 0x80#8) = some (0x1234#16, 0x55F9#16) := by decide +kernel

theorem test_sbb_forms :
    carriedTo (.sbbRm8R8 (.mem atBx) .cl) = some (0x1234#16, 0x5676#16) ∧
    carriedTo (.sbbRm16R16 (.reg .ax) .cx) = some (0x1232#16, 0x5678#16) ∧
    carriedTo (.sbbR8Rm8 .al (.mem atBx)) = some (0x12BB#16, 0x5678#16) ∧
    carriedTo (.sbbR16Rm16 .ax (.mem atBx)) = some (0xBBBB#16, 0x5678#16) ∧
    carriedTo (.sbbAlImm8 0xFF#8) = some (0x1234#16, 0x5678#16) ∧ carriedTo (.sbbAxImm16 0x0101#16) = some (0x1132#16, 0x5678#16) ∧
    carriedTo (.sbbRm8Imm8 (.mem atBx) 0x10#8) = some (0x1234#16, 0x5667#16) ∧
    carriedTo (.sbbRm16Imm16 (.mem atBx) 0x0100#16) = some (0x1234#16, 0x5577#16) ∧
    carriedTo (.sbbRm16SextImm8 (.mem atBx) 0x80#8) = some (0x1234#16, 0x56F7#16) := by decide +kernel

theorem test_xchg :
    carriedTo (.xchgRm16R16 (.mem atBx) .ax) = some (0x5678#16, 0x1234#16) ∧
    carriedTo (.xchgRm8R8 (.mem atBx) .ah) = some (0x7834#16, 0x5612#16) ∧
    carriedTo (.xchgRm8R8 (.reg .al) .ah) = some (0x3412#16, 0x5678#16) ∧
    carriedTo (.xchgAxR16 .cx) = some (0x0001#16, 0x5678#16) := by decide +kernel

/-- AX and DX after a divide by BX or BL from AX, DX and BX. -/
def divided (i : Instr) (dx ax bx : Word) : Option (Word × Word) :=
  after (exec i (withReg (withReg (withReg system .dx dx) .ax ax) .bx bx)) fun t => (t.regs.ax, t.regs.dx)

/-- IP after a divide that raises the divide error, whose gate leads to 1000H. -/
def dividedIp (i : Instr) (dx ax bx : Word) : Option (Word × Word) :=
  after (exec i (withReg (withReg (withReg system .dx dx) .ax ax) .bx bx)) fun t => (t.ip, t.regs.ax)

theorem test_idiv :
    divided (.idivRm8 (.reg .bl)) 0x0000#16 0xFF80#16 0x0001#16 = some (0x0080#16, 0x0000#16) ∧
    divided (.idivRm8 (.reg .bl)) 0x0000#16 0xFFF9#16 0x0002#16 = some (0xFFFD#16, 0x0000#16) ∧
    divided (.idivRm8 (.reg .bl)) 0x0000#16 0x0007#16 0x00FE#16 = some (0x01FD#16, 0x0000#16) ∧
    divided (.idivRm16 (.reg .bx)) 0xFFFF#16 0x8000#16 0x0001#16 = some (0x8000#16, 0x0000#16) ∧
    divided (.idivRm16 (.reg .bx)) 0xFFFF#16 0xFFF9#16 0x0002#16 = some (0xFFFD#16, 0xFFFF#16) := by decide +kernel

theorem test_div :
    divided (.divRm8 (.reg .bl)) 0x0000#16 0x0064#16 0x0007#16 = some (0x020E#16, 0x0000#16) ∧
    divided (.divRm8 (.reg .bl)) 0x0000#16 0xFEFF#16 0x00FF#16 = some (0xFEFF#16, 0x0000#16) ∧
    divided (.divRm16 (.reg .bx)) 0x0001#16 0xFFFF#16 0x0002#16 = some (0xFFFF#16, 0x0001#16) ∧
    divided (.divRm16 (.reg .bx)) 0xFFFE#16 0xFFFF#16 0xFFFF#16 = some (0xFFFF#16, 0xFFFE#16) := by decide +kernel

theorem test_divide_error :
    dividedIp (.idivRm8 (.reg .bl)) 0x0000#16 0x0080#16 0x0001#16 = some (0x1000#16, 0x0080#16) ∧
    dividedIp (.idivRm8 (.reg .bl)) 0x0000#16 0x8000#16 0x00FF#16 = some (0x1000#16, 0x8000#16) ∧
    dividedIp (.idivRm16 (.reg .bx)) 0x8000#16 0x0000#16 0xFFFF#16 = some (0x1000#16, 0x0000#16) ∧
    dividedIp (.divRm8 (.reg .bl)) 0x0000#16 0x0100#16 0x0001#16 = some (0x1000#16, 0x0100#16) ∧
    dividedIp (.divRm16 (.reg .bx)) 0x0000#16 0x0005#16 0x0000#16 = some (0x1000#16, 0x0005#16) := by decide +kernel

theorem test_jumps :
    after (exec (.jmpRel8 0x0E#8) real) (fun t => t.ip) = some 0x0110#16 ∧
    after (exec (.jmpRel8 0xFE#8) real) (fun t => t.ip) = some 0x0100#16 ∧
    after (exec (.jmpRel16 0xFFFD#16) { real with ip1 := 0x0103 }) (fun t => t.ip) = some 0x0100#16 ∧
    after (exec (.jmpFar 0xE05B#16 0xF000#16) real) (fun t => (t.ip, t.cs.val, t.cs.cache.base)) =
      some (0xE05B#16, 0xF000#16, 0x0F0000#24) ∧
    refusal (exec (.jmpFar 0xE05B#16 0xF000#16) user) = some .protectedFarTransfer := by decide +kernel

theorem test_nop : after (exec .nop real) (fun t => (t.ip, t.regs)) = some (0x0102#16, real.regs) := by decide +kernel

/-! ### Steps (program P7; 60_exceptions.md R290, R318) -/

theorem test_step_from_reset :
    after (step (State.reset.withFetchWord 16 0x9000)) (fun t => t.ip) = some 0xFFF1#16 ∧
    after (step { State.reset with mem := placeBytes [] 0xFFFFF0 [0xEA#8, 0x00#8, 0x01#8, 0x00#8, 0x10#8] })
      (fun t => (t.cs.val, t.cs.cache.base, t.ip)) = some (0x1000#16, 0x010000#24, 0x0100#16) := by decide +kernel

theorem test_step_stops :
    refusal (step (withFlags real 0x0102#16)) = some .trapFlagSet ∧
    refusal (step (realWith 0x010100 [0xF3#8])) = some (.undecodable (.repeatPrefix 0xF3#8)) ∧
    refusal (step (realWith 0x010100 [0xF4#8])) = some (.undecodable (.excluded .hlt)) ∧
    refusal (step (unlockableXchg [0xF0#8, 0x26#8, 0x87#8, 0x07#8])) = some .lockNotApplicable ∧
    refusal (step (realWith 0x010100 (List.replicate 9 0x26#8 ++ [0x8B#8, 0x07#8]))) = some .instructionTooLong := by
  decide +kernel

-- an instruction and its prefixes are one step, whether it runs or its bytes are those of no instruction
theorem test_step_prefixes :
    after (step { real with mem := placeBytes (placeBytes [] 0x040010 [0x34#8, 0x12#8]) 0x010100 [0x26#8, 0x8B#8, 0x07#8] })
      (fun t => (t.regs.ax, t.ip, t.prefixLen, t.override)) = some (0x1234#16, 0x0103#16, 0, none) ∧
    after (step (realWith 0x010100 [0xF0#8, 0x26#8, 0x93#8])) (fun t => (t.regs.ax, t.ip, t.lock)) = some (0x0010#16, 0x0103#16, false) ∧
    refusal (step (realWith 0x010100 [0x26#8, 0xF4#8])) = some (.undecodable (.excluded .hlt)) := by decide +kernel

theorem test_step_interrupt :
    after (step { withFlags (realWith 0x000020 [0x5B#8, 0xE0#8, 0x00#8, 0xF0#8]) 0x0202#16 with inputs := [.interrupt 8#8] })
      (fun t => (t.ip, t.word 0x0200FA, t.inputs)) = some (0xE05B#16, 0x0100#16, []) ∧
    after (step { realWith 0x010100 [0x90#8] with inputs := [.interrupt 8#8] }) (fun t => (t.ip, t.inputs)) =
      some (0x0101#16, []) := by decide +kernel

theorem test_step_reset :
    after (step { system with inputs := [.reset] }) (fun t => (t.prot, t.ip, t.mem)) = some (false, 0xFFF0#16, tables) := by
  decide +kernel

/-! ### What meets the hypotheses of the statements, clause by clause -/

theorem next_of_after {α : Type} {o : Out} {f : State → α} {x : α} (h : after o f = some x) : ∃ t, o = .next t ∧ f t = x := by
  cases o with
  | next t => exact ⟨t, rfl, by simpa [after] using h⟩
  | fault r => simp [after] at h
  | refused r => simp [after] at h

/-- RESET with a NOP where the first instruction is fetched. -/
def resetNop : State := State.reset.withFetchWord 16 0x9000

theorem witness_StepKeepsInvariant : resetNop.Inv ∧ ∃ t, step resetNop = .next t ∧ t.ip = 0xFFF1#16 :=
  ⟨⟨by decide +kernel, by decide +kernel, by intro r; cases r <;> decide +kernel, by decide +kernel,
    fun _ => ⟨rfl, rfl⟩, fun _ => ⟨rfl, rfl⟩, by decide +kernel, by decide +kernel⟩,
    next_of_after (f := fun t => t.ip) (by decide +kernel)⟩

theorem witness_DecodeOfEncode :
    (Instr.movRm16R16 (.mem (.based .bp (.d8 0x00#8))) .di).wellFormed = true ∧ (Instr.movSregRm16 .ss (.reg .sp)).wellFormed = true ∧
    (Instr.xchgAxR16 .di).wellFormed = true ∧ (Instr.esc 3#3 4#3 (.reg 5#3)).wellFormed = true ∧
    (Instr.adcRm16Imm16 (.mem (.direct 0xFFFF#16)) 0xFFFF#16).wellFormed = true := by decide

theorem witness_EncodeOfDecode :
    decode [0x81#8, 0x96#8, 0xFF#8, 0xFF#8, 0x34#8, 0x12#8, 0x90#8] =
      .instr (.adcRm16Imm16 (.mem (.based .bp (.d16 0xFFFF#16))) 0x1234#16) [0x90#8] ∧
    decode [0xDF#8, 0xFF#8] = .instr (.esc 7#3 7#3 (.reg 7#3)) [] := by decide

theorem witness_RefusedEncodings :
    (Rm.mem (.based .bp (.d16 0x0000#16)) : Rm (BitVec 3)).wellFormed = true ∧ (Rm.reg 7#3).wellFormed = true ∧
    4#3 ≤ 4#3 ∧ 4#3 ≤ 7#3 ∧ (1#3 ≠ 2#3 ∧ 1#3 ≠ 3#3 ∧ 4#3 ≠ 2#3 ∧ 4#3 ≠ 3#3) ∧ 5#3 ≠ 6#3 ∧ 5#3 ≠ 7#3 := by decide

/-- `user` at an instruction. -/
def userAt (l : List Byte) : State := { user with mem := placeBytes tables 0x010100 l }

/-- The last two bytes that an instruction with eight prefixes can have: `LOCK ... MOV AX,[BX]`. -/
def longest : State := { realWith 0x010108 [0x8B#8, 0x07#8] with prefixLen := 8, lock := true, override := some .es }

theorem witness_StepRunsDecodedInstruction :
    ((realWith 0x010100 [0x90#8]).runsInstruction = true ∧
      decode (fetchWindow (realWith 0x010100 [0x90#8]).fetching) = .instr .nop (List.replicate 9 0x00#8) ∧ isPrefix .nop = false) ∧
    longest.runsInstruction = true ∧
    decode (fetchWindow longest.fetching) = .instr (.movR16Rm16 .ax (.mem atBx)) [] ∧
    (longest.lock = true ∧ longest.lockable (fetchWindow longest.fetching) = true) := by decide +kernel

theorem witness_StepRunsDecodedInstruction_prefix :
    (let s := realWith 0x010100 [0x26#8, 0x8B#8, 0x07#8];
      s.runsInstruction = true ∧ decode (fetchWindow s.fetching) = .instr .esPrefix ([0x8B#8, 0x07#8] ++ List.replicate 7 0x00#8) ∧
      s.lock = false ∧ isPrefix .esPrefix = true) ∧
    (let s := realWith 0x010100 [0xF0#8, 0x90#8];
      s.runsInstruction = true ∧ decode (fetchWindow s.fetching) = .instr .lock (0x90#8 :: List.replicate 8 0x00#8) ∧
      s.ioplViolated = false ∧ isPrefix .lock = true) ∧
    (let s := userAt [0xF0#8];
      s.runsInstruction = true ∧ decode (fetchWindow s.fetching) = .instr .lock (List.replicate 9 0x00#8) ∧ s.ioplViolated = true) := by
  decide +kernel

/-- The hypotheses about an instruction and its bytes, one address above the other. -/
theorem bytes_from {s : State} {i : Instr} {a : Nat}
    (h : ∀ k : Fin (encode i).length, lin s .cs (s.fetchOffset + k) 1 .fetch = .ok (a + k) ∧
      s.fetching.byteFor .fetch (a + k) = (encode i)[k]) :
    ∀ (k : Nat) (hk : k < (encode i).length), ∃ b, lin s .cs (s.fetchOffset + k) 1 .fetch = .ok b ∧
      s.fetching.byteFor .fetch b = (encode i)[k] :=
  fun k hk => ⟨a + k, h ⟨k, hk⟩⟩

theorem witness_StepRunsBytesInMemory :
    (longest.runsInstruction = true ∧ (Instr.movR16Rm16 .ax (.mem atBx)).wellFormed = true ∧ longest.superseded = [] ∧
      longest.platform.unlockable = [] ∧ (encode (.movR16Rm16 .ax (.mem atBx))).length + longest.prefixLen = maxInstrBytes ∧
      isPrefix (.movR16Rm16 .ax (.mem atBx)) = false) ∧
    ∀ (k : Nat) (h : k < (encode (.movR16Rm16 .ax (.mem atBx))).length), ∃ a,
      lin longest .cs (longest.fetchOffset + k) 1 .fetch = .ok a ∧
      longest.fetching.byteFor .fetch a = (encode (.movR16Rm16 .ax (.mem atBx)))[k] :=
  ⟨by decide +kernel, bytes_from (a := 0x010108) (by decide +kernel)⟩

theorem witness_StepRunsBytesInMemory_prefix :
    (let s := realWith 0x010100 [0x26#8, 0x8B#8, 0x07#8];
      (s.runsInstruction = true ∧ s.superseded = [] ∧ isPrefix .esPrefix = true) ∧
      ∀ (k : Nat) (h : k < (encode .esPrefix).length), ∃ a, lin s .cs (s.fetchOffset + k) 1 .fetch = .ok a ∧
        s.fetching.byteFor .fetch a = (encode .esPrefix)[k]) ∧
    (let s := realWith 0x010100 [0xF0#8, 0x90#8];
      (s.runsInstruction = true ∧ s.superseded = [] ∧ s.ioplViolated = false) ∧
      ∀ (k : Nat) (h : k < (encode .lock).length), ∃ a, lin s .cs (s.fetchOffset + k) 1 .fetch = .ok a ∧
        s.fetching.byteFor .fetch a = (encode .lock)[k]) ∧
    (let s := userAt [0xF0#8];
      (s.runsInstruction = true ∧ s.superseded = [] ∧ s.ioplViolated = true) ∧
      ∀ (k : Nat) (h : k < (encode .lock).length), ∃ a, lin s .cs (s.fetchOffset + k) 1 .fetch = .ok a ∧
        s.fetching.byteFor .fetch a = (encode .lock)[k]) :=
  ⟨⟨by decide +kernel, bytes_from (a := 0x010100) (by decide +kernel)⟩,
    ⟨by decide +kernel, bytes_from (a := 0x010100) (by decide +kernel)⟩,
    by decide +kernel, bytes_from (a := 0x010100) (by decide +kernel)⟩

/-- `real` with the CS limit one below the instruction. -/
def pastLimit : State := { real with cs := { real.cs with cache := { real.cs.cache with limit := 0x00FF#16 } } }

theorem witness_FetchBeyondLimitTraps :
    pastLimit.runsInstruction = true ∧ pastLimit.prefixLen < maxInstrBytes ∧ pastLimit.cs.cache.valid = true ∧
    pastLimit.cs.cache.expandDown = false ∧ pastLimit.cs.cache.limit.toNat < pastLimit.fetchOffset := by decide +kernel

theorem witness_GuardedStates :
    (real.prefixLen = 0 ∧ real.inputs.head? ≠ some .reset ∧ real.inputs.head? ≠ some .resetNumeric) ∧
    (withFlags real 0x0102#16).flags.tf = true ∧ { user with ss := system.ss }.flags.tf = false ∧
    { user with ss := system.ss }.prot = true ∧ { user with ss := system.ss }.cs.cache.dpl ≠ system.ss.cache.dpl := by
  decide +kernel

/-- `user` with another DS entry. -/
def userDs (c : SegCache) : State := { user with ds := { user.ds with cache := c } }

theorem witness_CheckedAddress :
    (lin (userDs (dataEntry 0xFF0000#24 3#2)) .ds 0xFFFF 1 .write = .ok 0xFFFFFF ∧
      lin (userDs { dataEntry 0#24 3#2 with limit := 0x0FFF#16, expandDown := true }) .ds 0x1000 1 .read = .ok 0x1000) ∧
    (user.seg .es).cache.valid = false ∧
    ((user.seg .cs).cache.valid = true ∧ (user.seg .cs).cache.code = true) ∧
    (let c := ((userDs { codeEntry 0#24 3#2 with readable := false }).seg .ds).cache;
      c.valid = true ∧ c.code = true ∧ c.readable = false) ∧
    (let c := (user.seg .ds).cache;
      c.valid = true ∧ c.code = false ∧ c.writable = true ∧ c.expandDown = false ∧ ¬0xFFFF + 2 - 1 ≤ c.limit.toNat) ∧
    (let c := ((userDs (dataEntry 0xFF0001#24 3#2)).seg .ds).cache;
      c.valid = true ∧ c.code = false ∧ c.writable = true ∧ 0xFFFF + 1 - 1 ≤ c.limit.toNat ∧
        2 ^ 24 ≤ c.base.toNat + 0xFFFF + 1 - 1) := by
  decide +kernel

/-- `real` with no memory behind 0A0000H to 0BFFFFH and ROM at 0F0000H to 0FFFFFH. -/
def hollow : State :=
  { real with platform := { real.platform with absent := [(0x0A0000, 0x0BFFFF)], rom := [(0x0F0000, 0x0FFFFF)] } }

theorem witness_StoreThenLoad :
    user.mem.wf = true ∧ user.writableAt 0xFFFFFE = true ∧ user.writableAt 0xFFFFFF = true ∧
    (hollow.writableAt 0x0A0000 = false ∧ hollow.writableAt 0x0BFFFF = false ∧ hollow.writableAt 0x09FFFF = true ∧
      hollow.writableAt 0x0C0000 = true) ∧
    (hollow.writableAt 0x0F0000 = false ∧ hollow.absentAt 0x0F0000 = false ∧ hollow.writableAt 0x0FFFFF = false ∧
      hollow.writableAt 0x0EFFFF = true ∧ hollow.writableAt 0x100000 = true) := by decide +kernel

theorem witness_PrefetchedBytes :
    (∀ c ∈ [(0x010104, 0xFA#8)], c.1 ≠ 0x010105) ∧ real.absentAt 0x010104 = false ∧ real.writableAt 0x010104 = true ∧ real.platform.prefetchWindow = none ∧
    supersededAt (real.setByte 0x010104 0xFB#8).superseded 0x010104 = [0x00#8] := by decide +kernel

/-- `MOV r, AX` is a segment load of what AX holds. -/
theorem loads_mov (s : State) (r : SegReg) (v : Word) (hr : r ≠ .cs) :
    LoadsSegment (withReg s .ax v) (.movSregRm16 r (.reg .ax)) r v id := .mov r _ v hr rfl

/-- A far pointer 1234:5000 in the data segment and the word 5678H on the stack. -/
def pointers : State := { realWith 0x030010 [0x00#8, 0x50#8, 0x34#8, 0x12#8] with
  mem := placeBytes (placeBytes [] 0x020100 [0x78#8, 0x56#8]) 0x030010 [0x00#8, 0x50#8, 0x34#8, 0x12#8] }

theorem witness_RealSegmentLoad :
    real.prot = false ∧ LoadsSegment (withReg real .ax 0xFFFF#16) (.movSregRm16 .es (.reg .ax)) .es 0xFFFF#16 id ∧
    LoadsSegment pointers .popSs .ss 0x5678#16 (fun t => t.setSp (pointers.regs.sp + 2#16)) ∧
    LoadsSegment pointers .popEs .es 0x5678#16 (fun t => t.setSp (pointers.regs.sp + 2#16)) ∧
    LoadsSegment pointers .popDs .ds 0x5678#16 (fun t => t.setSp (pointers.regs.sp + 2#16)) ∧
    LoadsSegment pointers (.les .ax atBx) .es (pointers.word 0x030012) (fun t => size16.setReg t .ax (pointers.word 0x030010)) ∧
    LoadsSegment pointers (.lds .ax atBx) .ds (pointers.word 0x030012) (fun t => size16.setReg t .ax (pointers.word 0x030010)) :=
  ⟨rfl, loads_mov real .es _ (by decide), .pop .ss _ _ rfl (by decide +kernel), .pop .es _ _ rfl (by decide +kernel),
    .pop .ds _ _ rfl (by decide +kernel), .far .es _ .ax atBx _ _ rfl (by decide +kernel) (by decide +kernel),
    .far .ds _ .ax atBx _ _ rfl (by decide +kernel) (by decide +kernel)⟩

theorem witness_NullSelectorLoad :
    user.prot = true ∧ (0x0000#16 ≤ 3#16 ∧ 0x0003#16 ≤ 3#16) ∧
    LoadsSegment (withReg user .ax 0x0000#16) (.movSregRm16 .ds (.reg .ax)) .ds 0x0000#16 id ∧
    LoadsSegment (withReg user .ax 0x0003#16) (.movSregRm16 .es (.reg .ax)) .es 0x0003#16 id :=
  ⟨by decide, by decide, loads_mov user .ds _ (by decide), loads_mov user .es _ (by decide)⟩

theorem witness_ProtectedSegmentLoad_stack :
    let s := withReg system .ax 0x0010#16
    let d := s.descriptorAt .loadedSegment 0x1010
    LoadsSegment s (.movSregRm16 .ss (.reg .ax)) .ss 0x0010#16 id ∧
    s.prot = true ∧ isNullSelector 0x0010#16 = false ∧ readDescriptor s .loadedSegment 0x0010#16 protectionFault = .ok d ∧ d.present = true ∧
    rpl 0x0010#16 = s.cpl ∧ d.isWritableData = true ∧ d.dpl = s.cpl :=
  ⟨loads_mov system .ss _ (by decide), by decide +kernel⟩

/-- The hypotheses of a completed load of ES at level 3, for a selector and the address of its descriptor. -/
def loadable (v : Word) (entry : Nat) : Bool :=
  let d := user.descriptorAt .loadedSegment entry
  !isNullSelector v && decide (readDescriptor user .loadedSegment v protectionFault = .ok d) && d.present && (d.isData || d.isReadableCode) &&
    decide (user.cpl ≤ d.dpl) && (d.isConforming || decide (rpl v ≤ d.dpl)) &&
    decide (user.platform.format = DescFormat.default)

theorem witness_ProtectedSegmentLoad_data :
    loadable 0x0023#16 0x1020 = true ∧ loadable 0x0007#16 0x1800 = true ∧ loadable 0x001B#16 0x1018 = true ∧
    loadable 0x0053#16 0x1050 = true := by decide +kernel

theorem witness_SegmentLoadFaults_tables :
    let noLdt := { user with ldtr := { user.ldtr with valid := false } }
    isNullSelector 0x0003#16 = true ∧
    (isNullSelector 0x0100#16 = false ∧ isLocal user.platform.format 0x0100#16 = false ∧
      user.gdtr.limit.toNat < user.entryOffset 0x0100#16 + 7) ∧
    (isNullSelector 0x000C#16 = false ∧ isLocal user.platform.format 0x000C#16 = true ∧
      user.ldtr.limit.toNat < user.entryOffset 0x000C#16 + 7) ∧
    (isNullSelector 0x0004#16 = false ∧ isLocal noLdt.platform.format 0x0004#16 = true ∧ noLdt.ldtr.valid = false) ∧
    user.platform.format = DescFormat.default := by
  decide +kernel

/-- The descriptor that a selector names in a state, read for a purpose. -/
def descriptor (s : State) (v : Word) (p : Purpose := .loadedSegment) : Option Descriptor :=
  match readDescriptor s p v protectionFault with
  | .ok d => some d
  | .error _ => none

theorem witness_SegmentLoadFaults_data :
    (descriptor user 0x004B#16).any (fun d => decide (d.dpl < user.cpl)) = true ∧
    (descriptor user 0x003B#16).any (fun d => decide (user.cpl ≤ d.dpl) && !d.isData && !d.isReadableCode) = true ∧
    (descriptor system 0x0011#16).any (fun d => decide (system.cpl ≤ d.dpl) && !d.isConforming && decide (d.dpl < rpl 0x0011#16)) = true ∧
    (descriptor user 0x0033#16).any (fun d =>
      d.isData && decide (user.cpl ≤ d.dpl) && decide (rpl 0x0033#16 ≤ d.dpl) && !d.present) = true := by decide +kernel

theorem witness_SegmentLoadFaults_stack :
    (descriptor system 0x0011#16).any (fun d => decide (rpl 0x0011#16 ≠ system.cpl) && d.isWritableData) = true ∧
    (descriptor system 0x0008#16).any (fun d => !d.isWritableData) = true ∧
    (descriptor system 0x0048#16).any (fun d => decide (d.dpl ≠ system.cpl)) = true ∧
    (descriptor system 0x0040#16).any (fun d =>
      decide (rpl 0x0040#16 = system.cpl) && d.isWritableData && decide (d.dpl = system.cpl) && !d.present) = true := by
  decide +kernel

/-- `real` with a limit of its data segment. -/
def shortData (limit : Word) : State := { real with ds := { real.ds with cache := { real.ds.cache with limit := limit } } }

theorem witness_SegmentLoadFaults_operand :
    (SegReg.es ≠ SegReg.cs ∧ operandAddress { user with override := some .es } atBx 2 .read = .error protectionFault) ∧
    (popInstr .ss = some .popSs ∧
      stackWord (withReg user .sp 0xFFFF#16) (withReg user .sp 0xFFFF#16).regs.sp = .error (.trap .stackFault (some 0#16))) ∧
    (farLoadInstr .ax atBx .es = some (.les .ax atBx) ∧ farLoadInstr .ax atBx .ds = some (.lds .ax atBx)) ∧
    operandAddress (shortData 0x0010#16) atBx 2 .read = .error protectionFault ∧
    (let s := shortData 0x0012#16;
      operandAddress s atBx 2 .read = .ok 0x030010 ∧
      lin s (s.operandSegment atBx) (effectiveOffset s.regs atBx + 2#16).toNat 2 .read = .error protectionFault) := by
  decide +kernel

/-- `user` with an SS entry that cannot be written. -/
def fixedStack : State := { user with ss := { user.ss with cache := { user.ss.cache with writable := false } }, override := some .ss }

theorem witness_LoadRegister :
    size8.readRm pointers (.mem atBx) = .ok 0x00#8 ∧ size16.readRm pointers (.mem atBx) = .ok 0x5000#16 ∧
    size8.readRm pointers (.reg .bh) = .ok 0x00#8 ∧ Reg8.ah ≠ Reg8.al ∧
    operandAddress { user with override := some .es } atBx 1 .read = .error protectionFault ∧
    operandAddress real (.direct 0xFFFF#16) 2 .read = .error protectionFault := by decide +kernel

theorem witness_StoreRegister :
    operandAddress real (.direct 0xFFFF#16) 1 .write = .ok 0x03FFFF ∧
    operandAddress real (.direct 0xFFFE#16) 2 .write = .ok 0x03FFFE ∧
    operandAddress readOnly atBx 1 .write = .error protectionFault ∧
    operandAddress fixedStack atBx 2 .write = .error (.refuse .stackEntryNotWritable) := by decide +kernel

/-- `real` with the flag word of the LOADALL area at the top of memory, or past it. -/
def topImage (a : Nat) : State :=
  { real with platform := { real.platform with loadall := { LoadallImage.default with flags := a } } }

theorem witness_LoadallLoads :
    (user.prot = true ∧ user.cpl ≠ 0#2) ∧ (real.prot = false ∧ imageInside real.platform.loadall = true) ∧
    (system.prot = true ∧ system.cpl = 0#2 ∧ imageInside system.platform.loadall = true) ∧
    imageInside (topImage 0xFFFFFE).platform.loadall = true ∧
    ((topImage 0xFFFFFF).prot = false ∧ imageInside (topImage 0xFFFFFF).platform.loadall = false) := by decide +kernel

theorem witness_LoadallKeeps :
    (real.prot = false ∧ imageInside real.platform.loadall = true) ∧
    (system.prot = true ∧ system.cpl = 0#2 ∧ imageInside system.platform.loadall = true) ∧ real.intShadow = false := by
  decide +kernel

/-- `real` with the interrupt table at the top of memory. -/
def topTable : State := { real with idtr := { base := 0xFFFC00#24, limit := 0x03FF#16 } }

theorem witness_SoftwareInterruptReal :
    isInt (.intImm8 0xFF#8) 0xFF#8 ∧ isInt .int3 3#8 ∧ topTable.prot = false ∧ 4 * 0xFF + 3 ≤ topTable.idtr.limit.toNat ∧
    topTable.idtr.base.toNat + 4 * 0xFF + 4 ≤ physicalSize ∧
    stackAddress topTable (topTable.regs.sp - 2#16) = .ok 0x0200FE ∧ stackAddress topTable (topTable.regs.sp - 4#16) = .ok 0x0200FC ∧
    stackAddress topTable (topTable.regs.sp - 6#16) = .ok 0x0200FA :=
  ⟨.inl rfl, .inr ⟨rfl, rfl⟩, by decide +kernel⟩

theorem witness_SoftwareInterruptGatePrivilege :
    isInt (.intImm8 0#8) 0#8 ∧ user.prot = true ∧
    (readGate user .interruptVector 0 protectionFault = .ok (user.gateAt .interruptVector 0x2000) ∧
      (user.gateAt .interruptVector 0x2000).dpl < user.cpl) ∧
    user.idtr.limit.toNat < 8 * 0x40 + 7 ∧
    (8 * 0x24 + 7 ≤ user.idtr.limit.toNat ∧ user.idtr.base.toNat + 8 * 0x24 + 8 ≤ physicalSize ∧
      (user.gateAt .interruptVector (user.idtr.base.toNat + 8 * 0x24)).type = none) ∧
    user.platform.format = DescFormat.default :=
  ⟨.inl rfl, by decide +kernel⟩

/-- What `EnterGate` asks of an interrupt or trap gate and of the segment it names, before it compares levels
(60_exceptions.md R305). -/
abbrev opensSegment (s : State) (g : Gate) (d : Descriptor) : Prop :=
  (g.type = some .interrupt ∨ g.type = some .trap) ∧ g.present = true ∧
  readDescriptor s .handler g.selector protectionFault = .ok d ∧ d.present = true ∧ d.isCode = true

/-- The gate leads to a more privileged level, whose SP and SS lie inside the physical space (60_exceptions.md R303, R305). -/
abbrev crossesInward (s : State) (g : Gate) (d : Descriptor) : Prop :=
  opensSegment s g d ∧ (d.isConforming = false ∧ d.dpl < s.cpl) ∧
  s.innerSpAt d.dpl + 2 ≤ physicalSize ∧ s.innerSsAt d.dpl + 2 ≤ physicalSize

/-- The SS that the TSS holds for the level of a handler (60_exceptions.md R303). -/
abbrev innerSelector (s : State) (d : Descriptor) : Word := s.wordFor .innerPointer (s.innerSsAt d.dpl)

/-- The descriptor of that SS is one of a stack of the level (60_exceptions.md R305). -/
abbrev isInnerStack (s : State) (d d2 : Descriptor) : Prop :=
  readDescriptor s .innerStack (innerSelector s d) protectionFault = .ok d2 ∧ d2.present = true ∧ d2.isWritableData = true ∧
  d2.dpl = d.dpl ∧ rpl (innerSelector s d) = d.dpl

theorem sameLevel_of {s : State} {g : Gate} {d : Descriptor}
    (h : opensSegment s g d ∧ (d.dpl = s.cpl ∨ (d.isConforming = true ∧ d.dpl ≤ s.cpl)) ∧ g.offset ≤ d.limit) :
    SameLevelGate s g d :=
  let ⟨⟨type, gate, read, segment, code⟩, level, inside⟩ := h
  { type := type, gatePresent := gate, read := ⟨_, read⟩, present := segment, code := code, level := level, inside := inside }

theorem innerLevel_of {s : State} {g : Gate} {d d2 : Descriptor}
    (h : crossesInward s g d ∧ g.offset ≤ d.limit ∧ isInnerStack s d d2) : InnerLevelGate s g d d2 :=
  let ⟨⟨⟨type, gate, read, segment, code⟩, level, tss⟩, inside, stack⟩ := h
  { type := type, gatePresent := gate, read := ⟨_, read⟩, present := segment, code := code
    conforming := level.1, level := level.2, inside := inside, spInside := tss.1, ssInside := tss.2
    stackRead := ⟨_, stack.1⟩, stackPresent := stack.2.1, stackWritable := stack.2.2.1, stackLevel := stack.2.2.2.1
    stackRpl := stack.2.2.2.2 }

/-- A gate to a more privileged level for which the TSS names no stack segment of that level. -/
theorem innerStackRefused_of {s : State} {g : Gate} {d : Descriptor} {saved : List Word} (h : crossesInward s g d)
    (no : s.outsideTable (innerSelector s d) = true ∨
      ∃ d2 e, readDescriptor s .innerStack (innerSelector s d) e = .ok d2 ∧
        (d2.present = false ∨ d2.isWritableData = false ∨ d2.dpl ≠ d.dpl ∨ rpl (innerSelector s d) ≠ d.dpl)) :
    EntryRefused s g saved .innerStackSegment :=
  let ⟨⟨type, gate, read, segment, code⟩, level, tss⟩ := h
  .innerStack (fun task => by simp [task] at type) gate read segment code level.1 level.2 tss.1 tss.2 no

/-- SP after words have been pushed from it down at the addresses given, where they can be (00_scope.md R13). -/
def pushedAt (s : State) : Word → List Nat → Option Word
  | sp, [] => some sp
  | sp, a :: l => if stackAddress s (sp - 2#16) = .ok a then pushedAt s (sp - 2#16) l else none

/-- A frame by the addresses of its words. -/
theorem frame_at {s : State} {sp' : Word} (l : List Nat) {vs : List Word} (hn : vs.length = l.length) {sp : Word}
    (h : pushedAt s sp l = some sp') : Frame s sp vs (l.zip vs) sp' := by
  induction l generalizing vs sp with
  | nil =>
    cases vs with
    | nil =>
      cases h
      exact .done _
    | cons _ _ => simp at hn
  | cons a l ih =>
    cases vs with
    | nil => simp at hn
    | cons v vs =>
      unfold pushedAt at h
      split at h
      · exact .push ‹_› (ih (by simpa using hn) h)
      · cases h

/-- The handler's segment at a selector of the GDT of `tables`. -/
def handlerAt (s : State) (sel : Nat) : Descriptor := s.descriptorAt .handler (0x1000 + sel)

/-- The inner stack of `tables`. -/
def innerStackOf (s : State) : Descriptor := s.descriptorAt .innerStack 0x1010

theorem witness_SoftwareInterruptSameLevel :
    isInt (.intImm8 0x22#8) 0x22#8 ∧ isInt (.intImm8 0x23#8) 0x23#8 ∧ isInt (.intImm8 0x21#8) 0x21#8 ∧
    (user.prot = true ∧ readGate user .interruptVector 0x22 protectionFault = .ok (user.gateAt .interruptVector 0x2110) ∧
      user.cpl ≤ (user.gateAt .interruptVector 0x2110).dpl) ∧
    SameLevelGate user (user.gateAt .interruptVector 0x2110) (handlerAt user 0x18) ∧
    (readGate user .interruptVector 0x23 protectionFault = .ok (user.gateAt .interruptVector 0x2118) ∧
      user.cpl ≤ (user.gateAt .interruptVector 0x2118).dpl) ∧
    SameLevelGate user (user.gateAt .interruptVector 0x2118) (handlerAt user 0x28) ∧
    (system.prot = true ∧ readGate system .interruptVector 0x21 protectionFault = .ok (system.gateAt .interruptVector 0x2108) ∧
      system.cpl ≤ (system.gateAt .interruptVector 0x2108).dpl) ∧
    SameLevelGate system (system.gateAt .interruptVector 0x2108) (handlerAt system 0x08) ∧
    stackAddress user (user.regs.sp - 2#16) = .ok 0x0200FE ∧ stackAddress user (user.regs.sp - 4#16) = .ok 0x0200FC ∧
    stackAddress user (user.regs.sp - 6#16) = .ok 0x0200FA :=
  ⟨.inl rfl, .inl rfl, .inl rfl, by decide +kernel, sameLevel_of (by decide +kernel), by decide +kernel,
    sameLevel_of (by decide +kernel), by decide +kernel, sameLevel_of (by decide +kernel), by decide +kernel⟩

/-- `user` with a gate at vector 25H and other bytes in memory. -/
def gated (gate : List Byte) (a : Nat) (l : List Byte) : State :=
  { user with mem := placeBytes (placeBytes tables 0x2128 gate) a l }

/-- A task gate; a gate not present; one to no entry of the GDT, one to data. -/
def taskGate : State := gated [0x00#8, 0x25#8, 0x68#8, 0x00#8, 0x00#8, 0xE5#8] 0 []
def absentGate : State := gated [0x00#8, 0x25#8, 0x08#8, 0x00#8, 0x00#8, 0x66#8] 0 []
def lostGate : State := gated [0x00#8, 0x25#8, 0x00#8, 0x01#8, 0x00#8, 0xE6#8] 0 []
def dataGate : State := gated [0x00#8, 0x25#8, 0x20#8, 0x00#8, 0x00#8, 0xE6#8] 0 []

/-- A gate to level 0 with another word of the TSS: an SS of level 3, an SS of no entry, an SP of 1. -/
def innerGate (a : Nat) (l : List Byte) : State := gated [0x00#8, 0x25#8, 0x08#8, 0x00#8, 0x00#8, 0xE6#8] a l

/-- A gate to level 3 with a stack entry that cannot be written, or an offset beyond its segment. -/
def outerGate (a : Nat) (l : List Byte) : State := gated [0x00#8, 0x25#8, 0x18#8, 0x00#8, 0x00#8, 0xE6#8] a l
def lockedStack : State := { outerGate 0 [] with ss := fixedStack.ss }

/-- What `INT 25H` is refused as. -/
def refusedEntry (s : State) : Option Refusal := refusal (exec (.intImm8 0x25#8) s)

theorem test_entry_refused :
    refusedEntry taskGate = some .taskGate ∧ refusedEntry absentGate = some .gateNotPresent ∧
    refusedEntry lostGate = some .handlerSegment ∧ refusedEntry dataGate = some .handlerSegment ∧
    refusedEntry (innerGate 0x3004 [0x20#8]) = some .innerStackSegment ∧
    refusedEntry (innerGate 0x3005 [0x01#8]) = some .innerStackSegment ∧
    refusedEntry (innerGate 0x3002 [0x01#8, 0x00#8]) = some .faultDuringEntry ∧
    refusedEntry lockedStack = some .stackEntryNotWritable ∧
    refusedEntry (outerGate 0x1019 [0x11#8]) = some .handlerOffset := by decide +kernel

/-- The gate at vector 25H, with the hypotheses of an INT through it. -/
def gate25 (s : State) (p : Purpose := .interruptVector) : Gate := s.gateAt p 0x2128
def readsGate25 (s : State) : Bool :=
  s.prot && decide (readGate s .interruptVector 0x25 protectionFault = .ok (gate25 s)) && decide (s.cpl ≤ (gate25 s).dpl)

theorem witness_EntryRefused_gate (saved : List Word) :
    readsGate25 taskGate = true ∧ EntryRefused taskGate (gate25 taskGate) saved .taskGate ∧
    readsGate25 absentGate = true ∧ EntryRefused absentGate (gate25 absentGate) saved .gateNotPresent ∧
    readsGate25 lostGate = true ∧ EntryRefused lostGate (gate25 lostGate) saved .handlerSegment ∧
    readsGate25 dataGate = true ∧ EntryRefused dataGate (gate25 dataGate) saved .handlerSegment :=
  ⟨by decide +kernel, .taskGate (by decide +kernel), by decide +kernel, .absent (by decide +kernel) (by decide +kernel),
    by decide +kernel, .noHandler (by decide +kernel) (by decide +kernel) (by decide +kernel), by decide +kernel,
    .handler (d := handlerAt dataGate 0x20) (e := protectionFault) (by decide +kernel) (by decide +kernel) (by decide +kernel)
      (by decide +kernel)⟩

theorem witness_EntryRefused_innerStack (saved : List Word) :
    let s := innerGate 0x3004 [0x20#8]
    let u := innerGate 0x3005 [0x01#8]
    readsGate25 s = true ∧ EntryRefused s (gate25 s) saved .innerStackSegment ∧
    readsGate25 u = true ∧ EntryRefused u (gate25 u) saved .innerStackSegment :=
  ⟨by decide +kernel,
    innerStackRefused_of (d := handlerAt (innerGate 0x3004 [0x20#8]) 0x08) (by decide +kernel)
      (.inr ⟨(innerGate 0x3004 [0x20#8]).descriptorAt .innerStack 0x1020, protectionFault, by decide +kernel, by decide +kernel⟩),
    by decide +kernel,
    innerStackRefused_of (d := handlerAt (innerGate 0x3005 [0x01#8]) 0x08) (by decide +kernel) (.inl (by decide +kernel))⟩

-- the first of the pushed words, on the inner stack and on the same stack
theorem witness_EntryRefused_push (v : Word) (saved : List Word) :
    let s := innerGate 0x3002 [0x01#8, 0x00#8]
    readsGate25 s = true ∧ EntryRefused s (gate25 s) saved .faultDuringEntry ∧
    readsGate25 lockedStack = true ∧ EntryRefused lockedStack (gate25 lockedStack) (v :: saved) .stackEntryNotWritable :=
  ⟨by decide +kernel,
    .push (.inner (d := handlerAt (innerGate 0x3002 [0x01#8, 0x00#8]) 0x08)
      (d2 := innerStackOf (innerGate 0x3002 [0x01#8, 0x00#8])) (innerLevel_of (by decide +kernel)))
      (pre := []) rfl (.done _) (x := .stackFault) (c := some 0#16) (by decide +kernel),
    by decide +kernel,
    .pushRefused (.same (d := handlerAt lockedStack 0x18) (sameLevel_of (by decide +kernel)))
      (pre := []) rfl (.done _) (by decide +kernel)⟩

theorem witness_EntryRefused_offset (v1 v2 v3 : Word) :
    let s := outerGate 0x1019 [0x11#8]
    readsGate25 s = true ∧ EntryRefused s (gate25 s) [v1, v2, v3] .handlerOffset :=
  ⟨by decide +kernel,
    .offset (.same (d := handlerAt (outerGate 0x1019 [0x11#8]) 0x18) (sameLevel_of (by decide +kernel)))
      (frame_at [0x0200FE, 0x0200FC, 0x0200FA] rfl (sp' := 0x00FA#16) (by decide +kernel)) (by decide +kernel)⟩

/-- `user` with no gate at vector 13, or with the IDT before vector 13. -/
def noGate : State := { user with mem := placeBytes tables 0x206D [0x84#8] }
def shortIdt : State := { user with idtr := { user.idtr with limit := 0x006E#16 } }

theorem witness_ExceptionEntry_refused (saved : List Word) :
    (shortIdt.prot = true ∧ shortIdt.idtr.limit.toNat < 8 * Exc.generalProtection.vector + 7) ∧
    (8 * Exc.generalProtection.vector + 7 ≤ noGate.idtr.limit.toNat ∧
      noGate.idtr.base.toNat + 8 * Exc.generalProtection.vector + 8 ≤ physicalSize ∧
      (noGate.gateAt .exceptionVector (noGate.idtr.base.toNat + 8 * Exc.generalProtection.vector)).type = none) ∧
    (let s := { user with mem := placeBytes tables 0x206D [0x06#8] };
      readGate s .exceptionVector Exc.generalProtection.vector protectionFault = .ok (s.gateAt .exceptionVector 0x2068) ∧
      EntryRefused s (s.gateAt .exceptionVector 0x2068) saved .gateNotPresent) :=
  ⟨by decide +kernel, by decide +kernel, by decide +kernel, .absent (by decide +kernel) (by decide +kernel)⟩

theorem witness_SoftwareInterruptInnerLevel :
    let g := user.gateAt .interruptVector 0x2108
    let d := handlerAt user 0x08
    let sp2 := user.wordFor .innerPointer (user.innerSpAt d.dpl)
    let inner := user.onInnerStack d.dpl (innerStackOf user)
    (readGate user .interruptVector 0x21 protectionFault = .ok g ∧ user.cpl ≤ g.dpl ∧
      user.platform.format = DescFormat.default) ∧
    InnerLevelGate user g d (innerStackOf user) ∧
    stackAddress inner (sp2 - 2#16) = .ok 0x0201FE ∧ stackAddress inner (sp2 - 4#16) = .ok 0x0201FC ∧
    stackAddress inner (sp2 - 6#16) = .ok 0x0201FA ∧ stackAddress inner (sp2 - 8#16) = .ok 0x0201F8 ∧
    stackAddress inner (sp2 - 10#16) = .ok 0x0201F6 :=
  ⟨by decide +kernel, innerLevel_of (by decide +kernel), by decide +kernel⟩

theorem witness_ExceptionEntryReal :
    real.prot = false ∧ 4 * Exc.extensionError.vector + 3 ≤ real.idtr.limit.toNat ∧
    real.idtr.base.toNat + 4 * Exc.extensionError.vector + 4 ≤ physicalSize ∧
    stackAddress real (real.regs.sp - 2#16) = .ok 0x0200FE ∧ stackAddress real (real.regs.sp - 4#16) = .ok 0x0200FC ∧
    stackAddress real (real.regs.sp - 6#16) = .ok 0x0200FA := by decide +kernel

theorem witness_ExceptionEntrySameLevel :
    let saved := [system.flags.toWord, system.cs.val, system.ip]
    (system.prot = true ∧
      readGate system .exceptionVector Exc.generalProtection.vector protectionFault = .ok (system.gateAt .exceptionVector 0x2068) ∧
      readGate system .exceptionVector Exc.extensionError.vector protectionFault = .ok (system.gateAt .exceptionVector 0x2080)) ∧
    SameLevelGate system (system.gateAt .exceptionVector 0x2068) (handlerAt system 0x08) ∧
    SameLevelGate system (system.gateAt .exceptionVector 0x2080) (handlerAt system 0x08) ∧
    Frame system system.regs.sp (saved ++ (some 0x0010#16).toList)
      [(0x0200FE, system.flags.toWord), (0x0200FC, system.cs.val), (0x0200FA, system.ip), (0x0200F8, 0x0010#16)] 0x00F8#16 ∧
    Frame system system.regs.sp (saved ++ (none : Option Word).toList)
      [(0x0200FE, system.flags.toWord), (0x0200FC, system.cs.val), (0x0200FA, system.ip)] 0x00FA#16 :=
  ⟨by decide +kernel, sameLevel_of (by decide +kernel), sameLevel_of (by decide +kernel),
    frame_at [0x0200FE, 0x0200FC, 0x0200FA, 0x0200F8] rfl (by decide +kernel),
    frame_at [0x0200FE, 0x0200FC, 0x0200FA] rfl (by decide +kernel)⟩

theorem witness_ExceptionEntry_innerLevel :
    let d := handlerAt user 0x08
    let inner := user.onInnerStack d.dpl (innerStackOf user)
    let sp2 := user.wordFor .innerPointer (user.innerSpAt d.dpl)
    let saved := [user.flags.toWord, user.cs.val, user.ip]
    (user.prot = true ∧
      readGate user .exceptionVector Exc.generalProtection.vector protectionFault = .ok (user.gateAt .exceptionVector 0x2068) ∧
      readGate user .exceptionVector Exc.divideError.vector protectionFault = .ok (user.gateAt .exceptionVector 0x2000)) ∧
    InnerLevelGate user (user.gateAt .exceptionVector 0x2068) d (innerStackOf user) ∧
    InnerLevelGate user (user.gateAt .exceptionVector 0x2000) d (innerStackOf user) ∧
    Frame inner sp2 ([user.ss.val, user.regs.sp] ++ (saved ++ (some 0x0000#16).toList))
      [(0x0201FE, user.ss.val), (0x0201FC, user.regs.sp), (0x0201FA, user.flags.toWord), (0x0201F8, user.cs.val),
        (0x0201F6, user.ip), (0x0201F4, 0x0000#16)] (sp2 - 2#16 - 2#16 - 2#16 - 2#16 - 2#16 - 2#16) ∧
    Frame inner sp2 ([user.ss.val, user.regs.sp] ++ (saved ++ (none : Option Word).toList))
      [(0x0201FE, user.ss.val), (0x0201FC, user.regs.sp), (0x0201FA, user.flags.toWord), (0x0201F8, user.cs.val),
        (0x0201F6, user.ip)] (sp2 - 2#16 - 2#16 - 2#16 - 2#16 - 2#16) :=
  ⟨by decide +kernel, innerLevel_of (by decide +kernel), innerLevel_of (by decide +kernel),
    frame_at [0x0201FE, 0x0201FC, 0x0201FA, 0x0201F8, 0x0201F6, 0x0201F4] rfl (by decide +kernel),
    frame_at [0x0201FE, 0x0201FC, 0x0201FA, 0x0201F8, 0x0201F6] rfl (by decide +kernel)⟩

/-- A return frame on the stack: IP 1234H, a CS selector, a flag word, SP 0400H, SS 0023H. -/
def framed (s : State) (cs flags : Byte) : State :=
  { s with mem := placeBytes s.mem 0x020100 [0x34#8, 0x12#8, cs, 0x00#8, 0x02#8, flags, 0x00#8, 0x04#8, 0x23#8, 0x00#8] }

/-- `real` with a limit of its stack segment. -/
def shortStack (limit : Word) : State := { real with ss := { real.ss with cache := { real.ss.cache with limit := limit } } }

theorem witness_ReturnReal :
    (let s := framed real 0x00#8 0x72#8;
      s.prot = false ∧ stackWord s s.regs.sp = .ok 0x1234#16 ∧ stackWord s (s.regs.sp + 2#16) = .ok 0x0000#16 ∧
      stackWord s (s.regs.sp + 4#16) = .ok 0x7202#16) ∧
    ((shortStack 0x0100#16).prot = false ∧
      stackWord (shortStack 0x0100#16) (shortStack 0x0100#16).regs.sp = .error (.refuse .realModeStackLimit)) ∧
    (stackWord (shortStack 0x0102#16) (shortStack 0x0102#16).regs.sp = .ok 0x0000#16 ∧
      stackWord (shortStack 0x0102#16) ((shortStack 0x0102#16).regs.sp + 2#16) = .error (.refuse .realModeStackLimit)) ∧
    stackWord (shortStack 0x0104#16) ((shortStack 0x0104#16).regs.sp + 2#16) = .ok 0x0000#16 ∧
    stackWord (shortStack 0x0104#16) ((shortStack 0x0104#16).regs.sp + 4#16) = .error (.refuse .realModeStackLimit) := by
  decide +kernel

/-- The hypotheses of IRET to the same level, for the CS selector of the frame. -/
def returnsSameLevel (s : State) (cs : Word) : Bool :=
  s.prot && !s.flags.nt && decide (frameWord s 0 = .ok 0x1234#16) && decide (frameWord s 2 = .ok cs) &&
    decide (frameWord s 4 = .ok 0x7202#16) && !isNullSelector cs && decide (rpl cs = s.cpl) &&
    (descriptor s cs .returnCode).any fun d =>
      d.isCode && d.present && (decide (d.dpl = s.cpl) || d.isConforming && decide (d.dpl ≤ s.cpl)) && decide (0x1234#16 ≤ d.limit)

theorem witness_ReturnSameLevel :
    returnsSameLevel (framed user 0x1B#8 0x72#8) 0x001B#16 = true ∧ returnsSameLevel (framed user 0x2B#8 0x72#8) 0x002B#16 = true ∧
    returnsSameLevel (framed system 0x08#8 0x72#8) 0x0008#16 = true := by decide +kernel

/-- `user` with another SP. -/
def stackAt (sp : Word) : State := withReg user .sp sp

theorem witness_ReturnSameLevel_stack :
    (user.prot = true ∧ user.flags.nt = false) ∧
    frameWord (stackAt 0xFFFF#16) 0 = .error (.trap .stackFault (some 0#16)) ∧
    (let s := { stackAt 0x00FE#16 with ss := { user.ss with cache := { user.ss.cache with limit := 0x0100#16 } } };
      frameWord s 0 = .ok 0x0000#16 ∧ frameWord s 2 = .error (.trap .stackFault (some 0#16))) ∧
    (let s := { stackAt 0x00FE#16 with ss := { user.ss with cache := { user.ss.cache with limit := 0x0102#16 } } };
      frameWord s 0 = .ok 0x0000#16 ∧ frameWord s 2 = .ok 0x0000#16 ∧
      frameWord s 4 = .error (.trap .stackFault (some 0#16))) ∧
    frameWord (stackAt 0xFFFE#16) 0 = .ok 0x0000#16 ∧
    frameWord (stackAt 0xFFFE#16) 2 = .error (.trap .stackFault (some 0#16)) := by decide +kernel

-- a frame past offset FFFFH does not go on at offset 0 (20_memory.md R79)
theorem test_iret_frame_past_the_end :
    returnProtected (stackAt 0xFFFE#16) = .error (.trap .stackFault (some 0#16)) ∧
    returnProtected (stackAt 0xFFFC#16) = .error (.trap .stackFault (some 0#16)) ∧
    after (exec .iret { withReg real .sp 0xFFFE#16 with mem := placeBytes (placeBytes [] 0x02FFFE [0x34#8, 0x12#8]) 0x020002 [0x02#8] })
      (fun t => (t.ip, t.regs.sp)) = some (0x1234#16, 0x0004#16) := by decide +kernel

/-- `user` or `system` with a frame whose code segment is at the last entry the GDT can hold, of an access byte and a limit. -/
def framedTo (s : State) (cs access limitHigh : Byte) : State :=
  { framed s cs 0x02#8 with mem := placeBytes (framed s cs 0x02#8).mem 0x10F8 [0xFF#8, limitHigh, 0x00#8, 0x00#8, 0x01#8, access] }

/-- The descriptor of the code segment in such a frame. -/
def returnDescriptor (s : State) (cs access limitHigh : Byte) : Descriptor := (framedTo s cs access limitHigh).descriptorAt .returnCode 0x10F8

theorem witness_ReturnSameLevel_selector :
    (isNullSelector 0x0003#16 = true ∧ rpl 0x0018#16 < user.cpl) ∧
    (isNullSelector 0x0103#16 = false ∧ user.cpl ≤ rpl 0x0103#16 ∧ isLocal user.platform.format 0x0103#16 = false ∧
      user.gdtr.limit.toNat < user.entryOffset 0x0103#16 + 7) ∧
    (user.cpl ≤ rpl 0x000F#16 ∧ isLocal user.platform.format 0x000F#16 = true ∧
      user.ldtr.limit.toNat < user.entryOffset 0x000F#16 + 7) ∧
    frameWord (framed user 0x18#8 0x02#8) 2 = .ok 0x0018#16 := by decide +kernel

-- not present is tested before the level
theorem test_iret_check_order :
    returnProtected (framedTo user 0xFB#8 0x5A#8 0xFF#8) = .error (.trap .segmentNotPresent (some 0x00F8#16)) := by decide +kernel

-- data; not present and of another level; of another level; the offset 1234H beyond the limit
theorem witness_ReturnSameLevel_descriptor :
    (let d := returnDescriptor user 0xFB#8 0xF2#8 0xFF#8;
      readDescriptor (framedTo user 0xFB#8 0xF2#8 0xFF#8) .returnCode 0x00FB#16 protectionFault = .ok d ∧ d.isCode = false) ∧
    (let d := returnDescriptor user 0xFB#8 0x5A#8 0xFF#8;
      readDescriptor (framedTo user 0xFB#8 0x5A#8 0xFF#8) .returnCode 0x00FB#16 protectionFault = .ok d ∧ d.isCode = true ∧
      d.present = false) ∧
    (let d := returnDescriptor user 0xFB#8 0xDA#8 0xFF#8;
      readDescriptor (framedTo user 0xFB#8 0xDA#8 0xFF#8) .returnCode 0x00FB#16 protectionFault = .ok d ∧ d.isCode = true ∧
      d.present = true ∧ ¬(d.dpl = rpl 0x00FB#16 ∨ (d.isConforming = true ∧ d.dpl ≤ rpl 0x00FB#16))) ∧
    (let d := returnDescriptor user 0xFB#8 0xFA#8 0x11#8;
      readDescriptor (framedTo user 0xFB#8 0xFA#8 0x11#8) .returnCode 0x00FB#16 protectionFault = .ok d ∧ d.isCode = true ∧
      d.present = true ∧ d.dpl = rpl 0x00FB#16 ∧ rpl 0x00FB#16 = user.cpl ∧ d.limit < 0x1234#16) := by decide +kernel

/-- What `system` with a frame returns to: the code segment and the stack segment. -/
def outer (s : State) : Descriptor := s.descriptorAt .returnCode 0x1018

theorem witness_ReturnOuterLevel :
    let s := framed system 0x1B#8 0x02#8
    let d := outer s
    let d2 := s.descriptorAt .returnStack 0x1020
    (s.prot = true ∧ s.flags.nt = false ∧ frameWord s 0 = .ok 0x1234#16 ∧ frameWord s 2 = .ok 0x001B#16 ∧
      frameWord s 4 = .ok 0x0202#16 ∧ frameWord s 6 = .ok 0x0400#16 ∧
      frameWord s 8 = .ok 0x0023#16) ∧
    (isNullSelector 0x001B#16 = false ∧ s.cpl < rpl 0x001B#16 ∧ readDescriptor s .returnCode 0x001B#16 protectionFault = .ok d ∧
      d.isCode = true ∧ d.present = true ∧ d.dpl = rpl 0x001B#16 ∧ 0x1234#16 ≤ d.limit) ∧
    isNullSelector 0x0023#16 = false ∧ rpl 0x0023#16 = rpl 0x001B#16 ∧ readDescriptor s .returnStack 0x0023#16 protectionFault = .ok d2 ∧
    d2.isWritableData = true ∧ d2.dpl = rpl 0x001B#16 ∧ d2.present = true := by decide +kernel

/-- `system` with a return frame for level 3 and a limit of its stack segment, or a limit of the code segment returned to. -/
def framedOuter (stackLimit codeLimit : Byte) : State :=
  { framed system 0x1B#8 0x02#8 with
    ss := { system.ss with cache := { system.ss.cache with limit := 0x0100#16 ||| stackLimit.setWidth 16 } }
    mem := placeBytes (framed system 0x1B#8 0x02#8).mem 0x1019 [codeLimit] }

theorem witness_ReturnOuterLevel_stack :
    (let s := framedOuter 0x06#8 0xFF#8;
      frameWord s 0 = .ok 0x1234#16 ∧ frameWord s 2 = .ok 0x001B#16 ∧
      frameWord s 4 = .ok 0x0202#16 ∧
      frameWord s 6 = .error (.trap .stackFault (some 0#16))) ∧
    (let s := framedOuter 0x08#8 0xFF#8;
      frameWord s 6 = .ok 0x0400#16 ∧ frameWord s 8 = .error (.trap .stackFault (some 0#16))) ∧
    (let s := framedOuter 0xFF#8 0x11#8;
      frameWord s 0 = .ok 0x1234#16 ∧ readDescriptor s .returnCode 0x001B#16 protectionFault = .ok (outer s) ∧
      (outer s).limit < 0x1234#16) := by decide +kernel

-- a null selector; one outside a table; another level or RPL; not present
theorem witness_ReturnOuterLevel_selector :
    let s := framed system 0x1B#8 0x02#8
    isNullSelector 0x0003#16 = true ∧
    (isNullSelector 0x0103#16 = false ∧ isLocal s.platform.format 0x0103#16 = false ∧
      s.gdtr.limit.toNat < s.entryOffset 0x0103#16 + 7) ∧
    (isLocal s.platform.format 0x000F#16 = true ∧ s.ldtr.limit.toNat < s.entryOffset 0x000F#16 + 7) ∧
    (let d2 := s.descriptorAt .returnStack 0x1048;
      readDescriptor s .returnStack 0x004B#16 protectionFault = .ok d2 ∧
      ¬(rpl 0x004B#16 = rpl 0x001B#16 ∧ d2.isWritableData = true ∧ d2.dpl = rpl 0x001B#16)) ∧
    (let d2 := s.descriptorAt .returnStack 0x1030;
      readDescriptor s .returnStack 0x0033#16 protectionFault = .ok d2 ∧
      (rpl 0x0033#16 = rpl 0x001B#16 ∧ d2.isWritableData = true ∧ d2.dpl = rpl 0x001B#16) ∧ d2.present = false) := by
  decide +kernel

theorem witness_ReturnNested :
    let s := withFlags user 0x4002#16
    let linked : State := { s with mem := placeBytes s.mem 0x3000 [0x68#8] }
    (s.prot = true ∧ s.flags.nt = true ∧ s.tr.base.toNat + s.platform.format.backLink + 2 ≤ physicalSize ∧
      s.wordFor .backLink (s.tr.base.toNat + s.platform.format.backLink) = 0#16) ∧
    linked.flags.nt = true ∧ linked.wordFor .backLink (linked.tr.base.toNat + linked.platform.format.backLink) ≠ 0#16 := by
  decide +kernel

theorem witness_PushFlags :
    stackAddress real (real.regs.sp - 2#16) = .ok 0x0200FE ∧
    stackAddress (withReg user .sp 0x0001#16) ((withReg user .sp 0x0001#16).regs.sp - 2#16) =
      .error (.trap .stackFault (some 0#16)) := by decide +kernel

theorem witness_PopFlags :
    stackWord (framed user 0x1B#8 0x02#8) 0x0100#16 = .ok 0x1234#16 ∧ (user.prot = true ∧ real.prot = false) ∧
    stackWord (withReg user .sp 0xFFFF#16) (withReg user .sp 0xFFFF#16).regs.sp = .error (.trap .stackFault (some 0#16)) := by
  decide +kernel

theorem witness_InterruptFlag :
    real.ioplViolated = false ∧ (withFlags user 0x3002#16).ioplViolated = false ∧ real.intShadow = false ∧
    user.ioplViolated = true ∧ (withFlags user 0x2002#16).ioplViolated = true := by decide +kernel

theorem witness_IoplRule :
    real.prot = false ∧ ((withFlags user 0x3002#16).prot = true ∧ (withFlags user 0x3002#16).cpl ≤ (withFlags user 0x3002#16).flags.iopl) ∧
    (withFlags user 0x2002#16).prot = true ∧ (withFlags user 0x2002#16).flags.iopl < (withFlags user 0x2002#16).cpl := by
  decide +kernel

theorem witness_PortAccess :
    real.ioplViolated = false ∧ 0xFF < ((PortForm.dx).port (withReg real .dx 0x0100#16)).toNat ∧
    (((PortForm.imm 0xF7#8).port real).toNat + PortOp.inByte.count ≤ 0xF8) ∧
    ((PortForm.imm 0xF6#8).port real).toNat + PortOp.outWord.count ≤ 0xF8 := by decide +kernel

theorem witness_ReservedPorts :
    (∃ p, ((PortForm.imm 0xF7#8).port real).toNat ≤ p ∧ p < ((PortForm.imm 0xF7#8).port real).toNat + PortOp.inWord.count ∧
      0xF8 ≤ p ∧ p ≤ 0xFF) ∧
    (∃ p, ((PortForm.imm 0xFF#8).port user).toNat ≤ p ∧ p < ((PortForm.imm 0xFF#8).port user).toNat + PortOp.outByte.count ∧
      0xF8 ≤ p ∧ p ≤ 0xFF) ∧
    real.ioplViolated = false ∧ user.ioplViolated = true :=
  ⟨⟨0xF8, by decide +kernel⟩, ⟨0xFF, by decide +kernel⟩, by decide +kernel, by decide +kernel⟩

theorem witness_PrefixesRemembered : real.ioplViolated = false ∧ system.ioplViolated = false := by decide +kernel

/-- `real` with TS and MP set. -/
def switched : State := { real with msw := 0xFFFA#16 }

theorem witness_WaitForNumeric :
    (switched.ts && switched.mp) = true ∧
    ((numericState .stuck false).ts && (numericState .stuck false).mp) = false ∧ (numericState .stuck false).numeric.busy = .stuck ∧
    (numericState .busy true).numeric.busy ≠ .stuck ∧ (numericState .busy true).numeric.errorPending = true ∧
    (numericState .busy false).numeric.busy ≠ .stuck ∧ (numericState .busy false).numeric.errorPending = false := by
  decide +kernel

theorem witness_NumericControl :
    (switched.ts || switched.em) = true ∧ ({ real with msw := 0xFFF4#16 }.ts || { real with msw := 0xFFF4#16 }.em) = true ∧
    ((real.ts || real.em) = false ∧ real.numeric.busy ≠ .stuck) ∧
    ((numericState .stuck false).ts || (numericState .stuck false).em) = false ∧ (numericState .stuck false).numeric.busy = .stuck := by
  decide +kernel

theorem witness_EscapeCompletes (op reg : BitVec 3) :
    ((real.ts || real.em) = false ∧ real.numeric.busy ≠ .stuck ∧ real.numeric.errorPending = false) ∧
    operandAddress real (.direct 0xFFFE#16) 2 (escapeKind op reg) = .ok 0x03FFFE ∧
    (real.seg (real.operandSegment (.direct 0xFFFE#16))).cache.base.toNat + 0x10000 ≤ physicalSize := by
  refine ⟨by decide +kernel, ?_, by decide +kernel⟩
  unfold escapeKind
  split <;> decide +kernel

theorem witness_EscapeChecks (op reg : BitVec 3) :
    (switched.ts || switched.em) = true ∧
    ((numericState .stuck false).ts || (numericState .stuck false).em) = false ∧ (numericState .stuck false).numeric.busy = .stuck ∧
    (numericState .busy true).numeric.busy ≠ .stuck ∧ (numericState .busy true).numeric.errorPending = true ∧
    ((user.ts || user.em) = false ∧ user.numeric.busy ≠ .stuck ∧ user.numeric.errorPending = false) ∧
    operandAddress { user with override := some .es } atBx 2 (escapeKind op reg) = .error protectionFault := by
  refine ⟨by decide +kernel, by decide +kernel, by decide +kernel, by decide +kernel, by decide +kernel, by decide +kernel, ?_⟩
  unfold escapeKind
  split <;> decide +kernel

theorem witness_PushStackPointer :
    stackAddress (withReg real .sp 0x0000#16) ((withReg real .sp 0x0000#16).regs.sp - 2#16) = .ok 0x02FFFE ∧
    (let s := withReg user .sp 0x0001#16;
      s.prot = true ∧ s.ss.cache.valid = true ∧ s.ss.cache.code = false ∧ s.ss.cache.writable = true ∧
      s.ss.cache.expandDown = false ∧ s.regs.sp = 1#16) ∧
    (let s := { user with ss := { user.ss with cache := { user.ss.cache with limit := 0x00FE#16 } } };
      s.ss.cache.limit.toNat < (s.regs.sp - 2#16).toNat + 1 ∧
      stackAddress s (s.regs.sp - 2#16) = .error (.trap .stackFault (some 0#16))) := by decide +kernel

/-- `real` with a CS limit of 0103H. -/
def shortCode : State := { real with cs := { real.cs with cache := { real.cs.cache with limit := 0x0103#16 } } }

/-- A memory operand that cannot be read, and one that can be read but whose write is refused. -/
theorem witness_failing_operands :
    (operandAddress { user with override := some .es } atBx 1 .read = .error protectionFault ∧
      operandAddress { user with override := some .es } atBx 2 .read = .error protectionFault) ∧
    (operandAddress real (.based .bp (.d16 0xFFFF#16)) 2 .read = .error (.refuse .realModeStackLimit)) ∧
    (operandAddress fixedStack atBx 1 .read = .ok 0x020010 ∧
      operandAddress fixedStack atBx 1 .write = .error (.refuse .stackEntryNotWritable)) ∧
    operandAddress fixedStack atBx 2 .read = .ok 0x020010 ∧
    operandAddress fixedStack atBx 2 .write = .error (.refuse .stackEntryNotWritable) ∧
    size8.readRm { user with override := some .es } (.mem atBx) = .error protectionFault ∧
    (CarryForm16.regRm .ax (.mem atBx)).source { user with override := some .es } = .error protectionFault := by decide +kernel

theorem witness_Jumps :
    (BitVec.ofInt 16 ((shortCode.ip1 : Int) + (0x01#8).toInt) ≤ shortCode.cs.cache.limit ∧
      shortCode.cs.cache.limit < BitVec.ofInt 16 ((shortCode.ip1 : Int) + (0x02#8).toInt) ∧
      BitVec.ofInt 16 ((shortCode.ip1 : Int) + (0x80#8).toInt) ≤ shortCode.cs.cache.limit) ∧
    (BitVec.ofNat 16 (shortCode.ip1 + (0xFFFD#16).toNat) ≤ shortCode.cs.cache.limit ∧
      shortCode.cs.cache.limit < BitVec.ofNat 16 (shortCode.ip1 + (0x0002#16).toNat)) ∧
    (shortCode.prot = false ∧ 0x0103#16 ≤ shortCode.cs.cache.limit ∧ shortCode.cs.cache.limit < 0x0104#16) ∧
    user.prot = true := by decide +kernel

theorem witness_ShiftSteps : 0 < 1 ∧ (Rm.mem (.direct 0xFFFF#16) : Rm (BitVec 3)).wellFormed = true := by decide

theorem witness_ShiftFlagRules :
    (8 = 8 ∨ 8 = 16) ∧ (16 = 8 ∨ 16 = 16) ∧ 1 ≠ 0 ∧ 31 ≠ 0 ∧ ShiftOp.ror ∈ [ShiftOp.rol, .ror, .rcl, .rcr] ∧
    ShiftOp.sar ∈ [ShiftOp.shl, .shr, .sar] := by decide

theorem witness_Shifts :
    shiftCount ((ShiftForm.imm 0x20#8).count real) = 0 ∧ shiftCount (ShiftForm.cl.count (withReg real .cx 0x00E0#16)) = 0 ∧
    shiftCount (ShiftForm.one.count real) ≠ 0 ∧ shiftCount ((ShiftForm.imm 0xFF#8).count real) ≠ 0 ∧
    (operandAddress real (.direct 0xFFFF#16) 1 .read = .ok 0x03FFFF ∧ operandAddress real (.direct 0xFFFF#16) 1 .write = .ok 0x03FFFF) ∧
    operandAddress real (.direct 0xFFFE#16) 2 .read = .ok 0x03FFFE ∧ operandAddress real (.direct 0xFFFE#16) 2 .write = .ok 0x03FFFE := by
  decide +kernel

theorem witness_ShiftCorners : 0 < 8 ∧ 8 < 9 ∧ 8 ≤ 8 ∧ 0 < 1 := by decide

theorem witness_Divide :
    (size8.readRm (withReg (withReg real .ax 0xFEFF#16) .bx 0x00FF#16) (.reg .bl) = .ok 0xFF#8 ∧
      (0xFEFF#16).toNat / (0xFF#8).toNat ≤ 0xFF) ∧
    (-128 ≤ (0xFF80#16).toInt.tdiv (0x01#8).toInt ∧ (0x4000#16).toInt.tdiv (0x80#8).toInt ≤ 127 ∧
      (0x007F#16).toInt.tdiv (0x01#8).toInt ≤ 127) ∧
    (size16.readRm (withReg real .bx 0xFFFF#16) (.reg .bx) = .ok 0xFFFF#16 ∧
      (0xFFFE#16 ++ 0xFFFF#16).toNat / (0xFFFF#16).toNat ≤ 0xFFFF) ∧
    -32768 ≤ (0xFFFF#16 ++ 0x8000#16).toInt.tdiv (0x0001#16).toInt ∧
    (0x4000#16 ++ 0x0000#16).toInt.tdiv (0x8000#16).toInt ≤ 32767 := by decide +kernel

theorem witness_DivideError :
    size8.readRm real (.reg .al) = .ok 0#8 ∧ 0xFF < (0x0100#16).toNat / (0x01#8).toNat ∧
    (0xFF7F#16).toInt.tdiv (0x01#8).toInt < -128 ∧ 127 < (0x0080#16).toInt.tdiv (0x01#8).toInt ∧
    size16.readRm real (.reg .ax) = .ok 0#16 ∧ 0xFFFF < (0x0001#16 ++ 0x0000#16).toNat / (0x0001#16).toNat ∧
    (0xFFFF#16 ++ 0x7FFF#16).toInt.tdiv (0x0001#16).toInt < -32768 ∧
    32767 < (0x8000#16 ++ 0x0000#16).toInt.tdiv (0xFFFF#16).toInt := by decide +kernel

theorem witness_Exchange :
    (operandAddress real atBx 1 .read = .ok 0x030010 ∧ operandAddress real atBx 1 .write = .ok 0x030010) ∧
    operandAddress real atBx 2 .read = .ok 0x030010 ∧ operandAddress real atBx 2 .write = .ok 0x030010 ∧
    Reg8.bl ≠ Reg8.al ∧ Reg16.cx ≠ Reg16.ax := by decide +kernel

theorem witness_CarryFlags : (8 = 8 ∨ 8 = 16) ∧ (16 = 8 ∨ 16 = 16) := by decide

theorem witness_AddSubtractWithCarry :
    ((CarryForm8.regRm .al (.mem atBx)).source carryState = .ok 0x78#8 ∧ (CarryForm8.regRm .al (.mem atBx)).dst = .reg .al) ∧
    ((CarryForm8.rmImm (.mem atBx) 0xFF#8).source carryState = .ok 0xFF#8 ∧
      (CarryForm8.rmImm (.mem atBx) 0xFF#8).dst = .mem atBx ∧ operandAddress carryState atBx 1 .read = .ok 0x030010 ∧
      operandAddress carryState atBx 1 .write = .ok 0x030010) ∧
    ((CarryForm16.axImm 0xFFFF#16).source carryState = .ok 0xFFFF#16 ∧ (CarryForm16.axImm 0xFFFF#16).dst = .reg .ax) ∧
    (CarryForm16.rmSextImm (.mem atBx) 0x80#8).source carryState = .ok 0xFF80#16 ∧
    (CarryForm16.rmSextImm (.mem atBx) 0x80#8).dst = .mem atBx ∧ operandAddress carryState atBx 2 .read = .ok 0x030010 ∧
    operandAddress carryState atBx 2 .write = .ok 0x030010 := by decide +kernel

theorem witness_WriteProtectedOperand :
    (operandAddress readOnly atBx 1 .read = .ok 0x030010 ∧ operandAddress readOnly atBx 2 .read = .ok 0x030010 ∧
      readOnly.operandSegment atBx ≠ .ss ∧ (readOnly.seg (readOnly.operandSegment atBx)).cache.writable = false ∧
      operandAddress { user with override := some .cs } atBx 2 .read = .ok 0x010010 ∧
      ({ user with override := some .cs }.seg .cs).cache.code = true) ∧
    undefinedAfterWriteFault readOnly atBx 2 (.xchgRm16R16 (.mem atBx) .ax)
      (size16.setReg readOnly .ax (Config.undefinedWord readOnly.freeIndex)) ∧
    undefinedAfterWriteFault readOnly atBx 1 (.adcRm8R8 (.mem atBx) .al)
      { readOnly with flags := readOnly.flags.undefinedSix readOnly.freeIndex } ∧
    undefinedAfterWriteFault readOnly atBx 2 (.rclRm16One (.mem atBx))
      { readOnly with flags := readOnly.flags.undefinedCarryOverflow readOnly.freeIndex } ∧
    ShiftOp.shl.throughCarry = false ∧ shiftCount (ShiftForm.one.count readOnly) ≠ 0 ∧
    shiftCount ((ShiftForm.imm 0x20#8).count readOnly) = 0 :=
  ⟨by decide +kernel, .inr (.inl ⟨rfl, .ax, rfl, rfl⟩), .inr (.inr (.inl ⟨rfl, .adc, .rmReg (.mem atBx) .al, rfl, rfl, rfl⟩)),
    .inr (.inr (.inr (.inr (.inr ⟨rfl, .rcl, .one, rfl, rfl, by decide +kernel, rfl⟩)))), by decide, by decide +kernel,
    by decide +kernel⟩

theorem witness_BoundaryEvents :
    (real.prefixLen = 0 ∧ real.flags.tf = false ∧ system.prot = true ∧ system.cs.cache.dpl = system.ss.cache.dpl) ∧
    (real.flags.ie = false ∧ ({ real with intShadow := true } : State).intShadow = true) ∧
    ({ real with exc9Pending := true } : State).exc9Pending = true ∧ real.inputs = [] := by decide +kernel

/-- A state with interrupts enabled that is offered one. -/
def offered (s : State) (n : Byte) : State := { withFlags s 0x0202#16 with inputs := [.interrupt n, .quiet] }

theorem witness_BoundaryEvents_real :
    let s := offered topTable 0xFF#8
    (s.inputs = .interrupt 0xFF#8 :: [.quiet] ∧ s.flags.tf = false ∧ s.flags.ie = true ∧ s.intShadow = false ∧ s.prot = false ∧
      4 * (0xFF#8).toNat + 3 ≤ s.idtr.limit.toNat ∧ s.idtr.base.toNat + 4 * (0xFF#8).toNat + 4 ≤ physicalSize) ∧
    Frame s s.regs.sp [s.flags.toWord, s.cs.val, s.ip]
      [(0x0200FE, s.flags.toWord), (0x0200FC, s.cs.val), (0x0200FA, s.ip)] 0x00FA#16 :=
  ⟨by decide +kernel, frame_at [0x0200FE, 0x0200FC, 0x0200FA] rfl (by decide +kernel)⟩

theorem witness_BoundaryEvents_sameLevel :
    let s := offered system 0x0D#8
    let u := s.fetching
    (s.prot = true ∧ s.flags.ie = true ∧ s.intShadow = false ∧
      readGate u .interruptVector (0x0D#8).toNat protectionFault = .ok (u.gateAt .interruptVector 0x2068)) ∧
    SameLevelGate u (u.gateAt .interruptVector 0x2068) (handlerAt u 0x08) ∧
    Frame u u.regs.sp [s.flags.toWord, s.cs.val, s.ip]
      [(0x0200FE, s.flags.toWord), (0x0200FC, s.cs.val), (0x0200FA, s.ip)] 0x00FA#16 :=
  ⟨by decide +kernel, sameLevel_of (by decide +kernel),
    frame_at [0x0200FE, 0x0200FC, 0x0200FA] rfl (by decide +kernel)⟩

-- the gate has dpl 0, the interrupted program level 3
theorem witness_BoundaryEvents_innerLevel :
    let s := offered user 0x0D#8
    let u := s.fetching
    let d := handlerAt u 0x08
    let sp2 := u.wordFor .innerPointer (u.innerSpAt d.dpl)
    (s.prot = true ∧ s.flags.ie = true ∧ s.intShadow = false ∧
      readGate u .interruptVector (0x0D#8).toNat protectionFault = .ok (u.gateAt .interruptVector 0x2068) ∧
      (u.gateAt .interruptVector 0x2068).dpl < s.cpl) ∧
    InnerLevelGate u (u.gateAt .interruptVector 0x2068) d (innerStackOf u) ∧
    Frame (u.onInnerStack d.dpl (innerStackOf u)) sp2 ([s.ss.val, s.regs.sp] ++ [s.flags.toWord, s.cs.val, s.ip])
      [(0x0201FE, s.ss.val), (0x0201FC, s.regs.sp), (0x0201FA, s.flags.toWord), (0x0201F8, s.cs.val), (0x0201F6, s.ip)]
      (sp2 - 2#16 - 2#16 - 2#16 - 2#16 - 2#16) :=
  ⟨by decide +kernel, innerLevel_of (by decide +kernel),
    frame_at [0x0201FE, 0x0201FC, 0x0201FA, 0x0201F8, 0x0201F6] rfl (by decide +kernel)⟩

-- a vector outside the table, outside the IDT, of no gate type; a gate not present
theorem witness_BoundaryEvents_noGate (saved : List Word) :
    (let s := offered { real with idtr := { real.idtr with limit := 0x00FE#16 } } 0x3F#8;
      s.prot = false ∧ s.flags.ie = true ∧ s.idtr.limit.toNat < 4 * (0x3F#8).toNat + 3) ∧
    (let s := offered user 0x40#8;
      s.prot = true ∧ s.flags.ie = true ∧ s.idtr.limit.toNat < 8 * (0x40#8).toNat + 7 ∧
      s.platform.format = DescFormat.default) ∧
    (let s := offered user 0x3F#8;
      8 * (0x3F#8).toNat + 7 ≤ s.idtr.limit.toNat ∧ s.idtr.base.toNat + 8 * (0x3F#8).toNat + 8 ≤ physicalSize ∧
      (s.fetching.gateAt .interruptVector (s.idtr.base.toNat + 8 * (0x3F#8).toNat)).type = none) ∧
    (let s := offered absentGate 0x25#8;
      readGate s.fetching .interruptVector (0x25#8).toNat protectionFault = .ok (gate25 s.fetching) ∧
      EntryRefused s.fetching (gate25 s.fetching) saved .gateNotPresent) :=
  ⟨by decide +kernel, by decide +kernel, by decide +kernel, by decide +kernel, .absent (by decide +kernel) (by decide +kernel)⟩

-- EXT is set: 8 * 40H + 3
theorem test_external_without_gate :
    after (step (offered user 0x40#8)) (fun t => (t.ip, t.word 0x0201F4, t.flags.ie)) = some (0x1D00#16, 0x0203#16, false) ∧
    refusal (step (offered absentGate 0x25#8)) = some .gateNotPresent := by decide +kernel

theorem witness_ResetEvents :
    user.prefixLen = 0 ∧ { user with inputs := [.reset, .quiet] }.inputs = .reset :: [.quiet] ∧
    { user with inputs := [.resetNumeric] }.inputs = .resetNumeric :: [] := by decide +kernel

theorem not_runs {s : State} {i j : Instr} {rest : List Byte} (h : decode (fetchWindow s.fetching) = .instr j rest)
    (hj : isPrefix j = false) (hi : i ≠ j) : ¬Runs s i := by
  intro hr
  cases hr with
  | here h' => exact hi (Decoded.instr.inj (h'.symm.trans h)).1
  | later h' hp _ _ _ =>
    obtain ⟨rfl, -⟩ := Decoded.instr.inj (h'.symm.trans h)
    simp [hj] at hp

theorem witness_SystemRegistersKept :
    (∃ t, step (userAt [0x90#8]) = .next t ∧ t.ip = 0x0101#16) ∧
    (¬((userAt [0x90#8]).prefixLen = 0 ∧ (userAt [0x90#8]).inputs.head? = some .reset) ∧ (userAt [0x90#8]).prot = true ∧
      ¬Runs (userAt [0x90#8]) .loadall) ∧
    (∃ t, step (userAt [0xDB#8, 0xE4#8]) = .next t ∧ t.numeric.mode = .prot) ∧ (userAt [0xDB#8, 0xE4#8]).numeric.mode = .real :=
  ⟨next_of_after (f := fun t => t.ip) (by decide +kernel),
    ⟨by decide +kernel, by decide +kernel, not_runs (j := .nop) (rest := List.replicate 9 0x00#8) (by decide +kernel) rfl (by simp)⟩,
    next_of_after (f := fun t => t.numeric.mode) (by decide +kernel), rfl⟩

/-- LOADALL with a prefix runs. -/
theorem witness_Runs : Runs (realWith 0x010100 [0x26#8, 0x0F#8, 0x05#8]) .loadall :=
  .later (p := .esPrefix) (rest := [0x0F#8, 0x05#8] ++ List.replicate 7 0x00#8) (by decide +kernel) rfl rfl
    (by decide +kernel) (.here (rest := List.replicate 7 0x00#8) (by decide +kernel))

theorem witness_PrivilegedFlagsKept :
    (∃ t, step (withFlags (userAt [0x90#8]) 0x0202#16) = .next t ∧ t.flags.ie = true) ∧
    ¬((userAt [0x90#8]).prefixLen = 0 ∧ (userAt [0x90#8]).inputs.head? = some .reset) ∧ (userAt [0x90#8]).cpl ≠ 0#2 ∧
    (withFlags (userAt [0x90#8]) 0x0202#16).flags.iopl < (withFlags (userAt [0x90#8]) 0x0202#16).cpl :=
  ⟨next_of_after (f := fun t => t.flags.ie) (by decide +kernel), by decide +kernel, by decide +kernel, by decide +kernel⟩

end

end Sys2Proof.Tests
end

section
/-! PROOFS. Memory and ports (20_memory.md): where an access that a check refuses ends, and what IN and OUT do after their
checks. -/

namespace Sys2Proof.Machine

/-! ### The checked address -/

theorem Kind.isWrite_iff {k : Kind} : k.isWrite = true ↔ k = .write := by cases k <;> simp [Kind.isWrite]

theorem Kind.isRead_iff {k : Kind} : k.isRead = true ↔ k = .read := by cases k <;> simp [Kind.isRead]

/-- Step 2 of `Lin` stops the access: it writes through a code segment or a segment that is not writable. -/
def SegCache.deniesWrite (c : SegCache) (k : Kind) : Prop := k = .write ∧ (c.code = true ∨ c.writable = false)

/-- Step 3 of `Lin` stops the access: it reads data through a code segment that is not readable. -/
def SegCache.deniesRead (c : SegCache) (k : Kind) : Prop := k = .read ∧ c.code = true ∧ c.readable = false

theorem SegCache.deniesWrite_iff {c : SegCache} {k : Kind} :
    ((c.code || !c.writable) && k.isWrite) = true ↔ c.deniesWrite k := by
  simp [SegCache.deniesWrite, Kind.isWrite_iff, and_comm]

theorem SegCache.deniesRead_iff {c : SegCache} {k : Kind} :
    ((c.code && !c.readable) && k.isRead) = true ↔ c.deniesRead k := by
  simp [SegCache.deniesRead, Kind.isRead_iff, and_comm]

/-- Steps 2 and 3 stop no access both. -/
theorem SegCache.deniesRead.not_deniesWrite {c : SegCache} {k : Kind} (h : c.deniesRead k) : ¬c.deniesWrite k := by
  obtain ⟨rfl, -, -⟩ := h
  rintro ⟨⟨⟩, -⟩

theorem SegCache.inLimit_iff {c : SegCache} {off n : Nat} :
    c.inLimit off n = true ↔
      (c.expandDown = false ∧ off + n - 1 ≤ c.limit.toNat) ∨
      (c.expandDown = true ∧ c.limit.toNat < off ∧ off + n - 1 ≤ 0xFFFF) := by
  cases h : c.expandDown <;> simp [SegCache.inLimit, h]

section
variable {s : State} {r : SegReg} {off n : Nat} {k : Kind}

/-- When `lin` answers an address, in the words of its steps. -/
theorem lin_ok_iff_permitted {a : Nat} :
    lin s r off n k = .ok a ↔
      (s.seg r).cache.valid = true ∧ ¬(s.seg r).cache.deniesWrite k ∧ ¬(s.seg r).cache.deniesRead k ∧
      (s.seg r).cache.inLimit off n = true ∧ a = (s.seg r).cache.base.toNat + off ∧ a + n ≤ physicalSize := by
  simp [lin_ok, Kind.isWrite_iff, Kind.isRead_iff, SegCache.deniesWrite, SegCache.deniesRead]

/-- Where a write that step 2 stops ends. -/
theorem lin_deniesWrite (hv : (s.seg r).cache.valid = true) (hw : (s.seg r).cache.deniesWrite k) :
    lin s r off n k = .error (if r = .ss then .refuse .stackEntryNotWritable else protectionFault) := by
  rw [← SegCache.deniesWrite_iff] at hw
  simp only [lin, hv, hw, Bool.not_true, Bool.false_eq_true, if_false, if_true]

/-- Where a read that step 3 stops ends; a read passes step 2. -/
theorem lin_deniesRead (hv : (s.seg r).cache.valid = true) (hr : (s.seg r).cache.deniesRead k) :
    lin s r off n k = .error protectionFault := by
  have hw := hr.not_deniesWrite
  rw [← SegCache.deniesWrite_iff] at hw
  rw [← SegCache.deniesRead_iff] at hr
  simp only [lin, hv, hw, hr, Bool.not_true, Bool.false_eq_true, if_false, if_true]

/-- A permitted access is decided by the limit and the physical space alone. -/
theorem lin_permitted (hv : (s.seg r).cache.valid = true) (hw : ¬(s.seg r).cache.deniesWrite k)
    (hr : ¬(s.seg r).cache.deniesRead k) :
    lin s r off n k =
      if (s.seg r).cache.inLimit off n = true then
        (requirePhysical ((s.seg r).cache.base.toNat + off) n >>= fun _ => pure ((s.seg r).cache.base.toNat + off))
      else .error (limitFault s r) := by
  rw [← SegCache.deniesWrite_iff] at hw
  rw [← SegCache.deniesRead_iff] at hr
  cases h : (s.seg r).cache.inLimit off n <;>
    simp only [lin, hv, hw, hr, h, Bool.not_true, Bool.not_false, Bool.false_eq_true, if_false, if_true]

/-- Where a permitted access outside the limit ends. -/
theorem lin_outsideLimit (hv : (s.seg r).cache.valid = true) (hw : ¬(s.seg r).cache.deniesWrite k)
    (hr : ¬(s.seg r).cache.deniesRead k) (hl : ¬(s.seg r).cache.inLimit off n = true) :
    lin s r off n k = .error (limitFault s r) := by
  rw [lin_permitted hv hw hr, if_neg hl]

theorem requirePhysical_beyond {a n : Nat} (h : physicalSize < a + n) :
    requirePhysical a n = .error (.refuse .beyondPhysicalSpace) := by
  simp [requirePhysical, require, Nat.not_le.mpr h]

/-- Where a permitted access inside the limit ends that leaves the physical space. -/
theorem lin_beyondPhysicalSpace (hv : (s.seg r).cache.valid = true) (hw : ¬(s.seg r).cache.deniesWrite k)
    (hr : ¬(s.seg r).cache.deniesRead k) (hl : (s.seg r).cache.inLimit off n = true)
    (hp : physicalSize < (s.seg r).cache.base.toNat + off + n) :
    lin s r off n k = .error (.refuse .beyondPhysicalSpace) := by
  rw [lin_permitted hv hw hr, if_pos hl, requirePhysical_beyond hp, Try.bind_error]

end

/-! ### Ports -/

theorem PortOp.count_pos (op : PortOp) : 0 < op.count := by cases op <;> decide

/-- The eight port instructions are one: the checks, then the effect of the access (43_io_and_lock.md R211, R212). -/
theorem exec_portInstr (op : PortOp) (form : PortForm) (s : State) :
    exec (portInstr op form) s =
      complete s (portCheck s (form.port s) op.count >>= fun _ => pure (op.effect s (form.port s)).advance) := by
  cases op with
  | inByte => cases form <;> rfl
  | inWord => cases form <;> rfl
  | outByte => cases form <;> rfl
  | outWord => cases form <;> rfl

/-- A port instruction that its checks stop ends as they say. -/
theorem exec_portInstr_error {op : PortOp} {form : PortForm} {s : State} {e : Stop}
    (h : portCheck s (form.port s) op.count = .error e) : exec (portInstr op form) s = endWith s e := by
  rw [exec_portInstr, h, Try.bind_error, complete_error]

theorem meetsReserved_iff {port : Word} {n : Nat} (hn : 0 < n) :
    meetsReserved port n = true ↔ ∃ p, port.toNat ≤ p ∧ p < port.toNat + n ∧ 0xF8 ≤ p ∧ p ≤ 0xFF := by
  simp only [meetsReserved, Bool.and_eq_true, decide_eq_true_eq]
  constructor
  · rintro ⟨hlow, hhigh⟩
    exact ⟨max port.toNat 0xF8, by omega, by omega, by omega, by omega⟩
  · rintro ⟨p, h1, h2, h3, h4⟩
    omega

/-- The IOPL check comes first, whatever the port. -/
theorem portCheck_violated {s : State} (port : Word) (n : Nat) (h : s.ioplViolated = true) :
    portCheck s port n = .error protectionFault := by
  rw [portCheck, ioplCheck_violated h, Try.bind_error]

theorem portCheck_reserved {s : State} {port : Word} {n : Nat} (h : s.ioplViolated = false)
    (hr : meetsReserved port n = true) : portCheck s port n = .error (.refuse .reservedPort) := by
  have hi : ioplCheck s = .ok () := ioplCheck_ok.mpr h
  rw [portCheck, hi, Try.bind_ok, hr, Bool.not_true, require_false]

/-! ### The statements -/

/-- Settles O12: each clause is the lemma on the step of `lin` that decides it; with one byte at least, the last byte is inside
the physical space when the end of the access is. -/
theorem checkedAddress : Obligations.CheckedAddress := by
  unfold Obligations.CheckedAddress
  intro s r off n k _ hn c writeFails readFails inside
  have hinside : c.inLimit off n = true ↔ inside := SegCache.inLimit_iff
  have hsize : physicalSize = 2 ^ 24 := rfl
  refine ⟨fun a => ?address, lin_invalid off n k, lin_deniesWrite, lin_deniesRead, fun hv hw hr hl => ?limit,
    fun hv hw hr hl hp => ?physical⟩
  case address =>
    have hlast : a + n ≤ physicalSize ↔ a + n - 1 < 2 ^ 24 := by omega
    rw [lin_ok_iff_permitted, ← hlast, ← hinside]
    rfl
  case limit => exact lin_outsideLimit hv hw hr (hinside.not.mpr hl)
  case physical =>
    have hbeyond : physicalSize < c.base.toNat + off + n := by omega
    exact lin_beyondPhysicalSpace hv hw hr (hinside.mpr hl) hbeyond

/-- Settles O38: the port instruction ends as its checks do, and they are the IOPL rule first, then the reserved ports. -/
theorem reservedPorts : Obligations.ReservedPorts := by
  unfold Obligations.ReservedPorts
  intro s op form hp
  have hr : meetsReserved (form.port s) op.count = true := (meetsReserved_iff op.count_pos).mpr hp
  constructor
  · intro h
    rw [exec_portInstr_error (portCheck_reserved h hr), endWith_refuse]
  · intro h
    rw [exec_portInstr_error (portCheck_violated _ _ h), protectionFault, endWith_trap]

end Sys2Proof.Machine
end

section
/-! PROOFS. LOADALL (41_loadall.md): when it completes and where, and what the load leaves unchanged. -/

namespace Sys2Proof.Machine

/-! ### What the load leaves unchanged -/

@[simp] theorem loadedState_flags (s : State) :
    (loadedState s).flags = Flags.ofWord (s.word s.platform.loadall.flags) := rfl
@[simp] theorem loadedState_numeric (s : State) : (loadedState s).numeric = s.numeric := rfl
@[simp] theorem loadedState_mem (s : State) : (loadedState s).mem = s.mem := rfl
@[simp] theorem loadedState_exc9Pending (s : State) : (loadedState s).exc9Pending = s.exc9Pending := rfl
@[simp] theorem loadedState_intShadow (s : State) : (loadedState s).intShadow = s.intShadow := rfl
@[simp] theorem loadedState_ioLog (s : State) : (loadedState s).ioLog = s.ioLog := rfl
@[simp] theorem loadedState_inputs (s : State) : (loadedState s).inputs = s.inputs := rfl
@[simp] theorem loadedState_platform (s : State) : (loadedState s).platform = s.platform := rfl
@[simp] theorem loadedState_freeIndex (s : State) : (loadedState s).freeIndex = s.freeIndex := rfl

/-- The state after a LOADALL that completes: the loaded one, continuing at the loaded IP with the prefetcher flushed. -/
def afterLoadall (s : State) : State := ((loadedState s).jump (s.word s.platform.loadall.ip)).finish

/-- LOADALL writes no byte (41_loadall.md R173). -/
theorem afterLoadall_sameBytes (s : State) : SameBytes s (afterLoadall s) :=
  .of_mem (by simp [afterLoadall]) (by simp [afterLoadall]) (by simp [afterLoadall])

/-! ### When an interrupt is accepted -/

@[simp] theorem Flags.ofWord_ie (w : Word) : (Flags.ofWord w).ie = w.getLsbD 9 := rfl

/-- Outside the hold-off after a load of SS, IF alone decides. -/
theorem State.accepts_of_not_intShadow {s : State} (h : s.intShadow = false) : s.accepts = s.flags.ie := by
  simp [State.accepts, h]

/-- LOADALL leaves the hold-off as it was; where there was none, the loaded IF decides. -/
theorem afterLoadall_accepts {s : State} (h : s.intShadow = false) :
    (afterLoadall s).accepts = (s.word s.platform.loadall.flags).getLsbD 9 := by
  have hs : (afterLoadall s).intShadow = false := by simpa [afterLoadall] using h
  rw [State.accepts_of_not_intShadow hs]
  simp [afterLoadall]

/-! ### When LOADALL completes -/

/-- The privilege check of LOADALL passes in real mode and at level 0 (41_loadall.md R172). -/
theorem loadall_permitted_iff {s : State} :
    (!(s.prot && decide (s.cpl ≠ 0#2))) = true ↔ s.prot = false ∨ s.cpl = 0#2 := by
  cases h : s.prot <;> simp

theorem exec_loadall (s : State) : exec .loadall s = execLoadall s := rfl

/-- LOADALL completes where its two checks pass. -/
theorem exec_loadall_completes {s : State} (hp : s.prot = false ∨ s.cpl = 0#2)
    (hi : imageInside s.platform.loadall = true) : exec .loadall s = .next (afterLoadall s) := by
  rw [exec_loadall, execLoadall, loadall_permitted_iff.mpr hp, hi, require_true, require_true, Try.bind_ok, Try.bind_ok]
  rfl

/-! ### The statement -/

/-- Settles O22: the next state is `afterLoadall s`, which has every field named as it was, and accepts by the loaded IF. -/
theorem loadallKeeps : Obligations.LoadallKeeps := by
  unfold Obligations.LoadallKeeps
  intro s hp hi
  refine ⟨afterLoadall s, exec_loadall_completes hp hi, ?numeric, ?mem, afterLoadall_sameBytes s, ?inputs, ?exc9Pending,
    ?ioLog, ?platform, afterLoadall_accepts⟩
  all_goals simp [afterLoadall]

end Sys2Proof.Machine
end

section
/-! PROOFS. The flag word and IRET with NT set (42_interrupt_and_flag_instructions.md): the layout PUSHF saves, what POPF loads,
and where the three instructions end. -/

namespace Sys2Proof.Machine

/-! ### IRET with NT set -/

theorem exec_iret (s : State) : exec .iret s = complete s (returnFromHandler s) := rfl

/-- IRET in protected mode with NT = 1 is the return through the back link. -/
theorem exec_iret_nested {s : State} (hp : s.prot = true) (hn : s.flags.nt = true) :
    exec .iret s = complete s (returnNested s) := by
  rw [exec_iret, returnFromHandler, hp, hn, Bool.not_true, if_neg Bool.false_ne_true, if_pos rfl]

/-- A back link inside the physical space decides alone where the return ends: never in a next state. -/
theorem returnNested_eq {s : State} (h : s.tr.base.toNat + s.platform.format.backLink + 2 ≤ physicalSize) :
    returnNested s =
      .error (if s.wordFor .backLink (s.tr.base.toNat + s.platform.format.backLink) = 0#16 then protectionFault
        else .refuse .taskSwitch) := by
  have hl := physicalWord_ok (s := s) (p := .backLink).mpr ⟨h, rfl⟩
  rw [returnNested, hl, Try.bind_ok]
  split
  next h0 => rw [h0]; rfl
  next h0 => rw [decide_eq_false h0]; rfl

/-- Settles O32: IRET is the nested return, and its back link is 0 or is not. -/
theorem returnNested_holds : Obligations.ReturnNested := by
  unfold Obligations.ReturnNested
  intro s hp hn a ha
  have hiret : exec .iret s = endWith s (if s.wordFor .backLink a = 0#16 then protectionFault else .refuse .taskSwitch) := by
    rw [exec_iret_nested hp hn, returnNested_eq ha, complete_error]
  refine ⟨fun h0 => ?null, fun h0 => ?task, rfl⟩
  case null => rw [hiret, if_pos h0, protectionFault, endWith_trap]
  case task => rw [hiret, if_neg h0, endWith_refuse]

/-! ### The flag word saved -/

/-- The bits of the flag word in the order of the layout, bit 0 first (10_state.md R35). -/
def Flags.bits (f : Flags) : List Bool :=
  [f.cf, true, f.pf, false, f.af, false, f.zf, f.sf, f.tf, f.ie, f.df, f.ovf, f.iopl.getLsbD 0, f.iopl.getLsbD 1, f.nt, false]

/-- The word saved has the layout `Flags.bits`: each field is appended above the ones before it. -/
theorem Flags.getLsbD_toWord (f : Flags) (i : Nat) : f.toWord.getLsbD i = f.bits.getD i false := by
  rcases Nat.lt_or_ge i 16 with hi | hi
  · simp only [Flags.toWord, BitVec.getLsbD_append]
    interval_cases i <;> simp [Flags.bits]
  · rw [BitVec.getLsbD_of_ge _ _ hi, List.getD_eq_default _ _ hi]

/-- IOPL is bits 12 and 13 of the word saved. -/
theorem Flags.extractLsb'_toWord_iopl (f : Flags) : f.toWord.extractLsb' 12 2 = f.iopl := by
  ext i hi
  rw [← BitVec.getLsbD_eq_getElem, ← BitVec.getLsbD_eq_getElem, BitVec.getLsbD_extractLsb', decide_eq_true hi, Bool.true_and,
    f.getLsbD_toWord]
  interval_cases i <;> rfl

/-! ### PUSHF -/

theorem exec_pushf (s : State) : exec .pushf s = complete s (push s s.flags.toWord >>= fun t => pure t.advance) := rfl

/-- A push that the stack access stops ends as the access does. -/
theorem push_error {s : State} {e : Stop} (v : Word) (h : stackAddress s (s.regs.sp - 2#16) = .error e) :
    push s v = .error e := by
  rw [stackAddress] at h
  rw [push, h, Try.bind_error]

/-- A word pushed, and the instruction ended: nothing but that word of memory changed. -/
theorem wroteWord_pushed (s : State) (a : Nat) (v sp : Word) : WroteWord s ((s.setWord a v).setSp sp).ended a v :=
  .of_mem (by simp [State.ended]) (by simp [State.ended]) (by simp [State.ended])

/-- Settles O33: PUSHF is one push, whose stack access alone can stop it, and the word has the layout of the flag word. -/
theorem pushFlags : Obligations.PushFlags := by
  unfold Obligations.PushFlags
  intro s
  refine ⟨fun a ha => ⟨?next, wroteWord_pushed s a _ _⟩, fun e he => ?stopped, ?layout, by decide⟩
  case next =>
    rw [exec_pushf, push_at _ rfl rfl rfl ha, Try.bind_ok]
    rfl
  case stopped => rw [exec_pushf, push_error _ he, Try.bind_error, complete_error]
  case layout =>
    have bit := s.flags.getLsbD_toWord
    exact ⟨bit 0, bit 1, bit 2, bit 3, bit 4, bit 5, bit 6, bit 7, bit 8, bit 9, bit 10, bit 11,
      s.flags.extractLsb'_toWord_iopl, bit 14, bit 15⟩

/-! ### POPF -/

/-- What a load of the flag word gives (42_interrupt_and_flag_instructions.md R189, 10_state.md R38): the word's fields, but for
IF and IOPL as the level allows, and IOPL and NT as real mode keeps them. -/
theorem Flags.load_eq (f : Flags) (prot : Bool) (cpl : BitVec 2) (highFlags : Bool) (v : Word) :
    f.load prot cpl highFlags v =
      { Flags.ofWord v with
        ie := if prot then (if cpl ≤ f.iopl then v.getLsbD 9 else f.ie) else v.getLsbD 9
        iopl := if prot then (if cpl = 0#2 then v.extractLsb' 12 2 else f.iopl)
          else if highFlags then v.extractLsb' 12 2 else 0#2
        nt := (prot || highFlags) && v.getLsbD 14 } := by
  cases prot with
  | true => simp [Flags.load, Flags.ofWord]
  | false => cases highFlags <;> rfl

/-- The state after a POPF that completes. -/
def afterPopf (s : State) (v : Word) : State := ((s.setSp (s.regs.sp + 2#16)).loadFlags s.cpl v).ended

theorem afterPopf_flags (s : State) (v : Word) :
    (afterPopf s v).flags = s.flags.load s.prot s.cpl s.platform.realModeHighFlags v := rfl

/-- POPF writes no byte. -/
theorem afterPopf_sameBytes (s : State) (v : Word) : SameBytes s (afterPopf s v) :=
  .of_mem (by simp [afterPopf, State.ended]) (by simp [afterPopf, State.ended]) (by simp [afterPopf, State.ended])

theorem exec_popf (s : State) :
    exec .popf s =
      complete s (stackWord s s.regs.sp >>= fun v => pure ((s.setSp (s.regs.sp + 2#16)).loadFlags s.cpl v).advance) := rfl

/-- POPF completes where the stack word can be read. -/
theorem exec_popf_completes {s : State} {v : Word} (h : stackWord s s.regs.sp = .ok v) :
    exec .popf s = .next (afterPopf s v) := by
  rw [exec_popf, h, Try.bind_ok]
  rfl

/-- Settles O34: the next state is `afterPopf s v`, whose flags are those of the load. -/
theorem popFlags : Obligations.PopFlags := by
  unfold Obligations.PopFlags
  intro s
  refine ⟨fun v hv => ⟨afterPopf s v, exec_popf_completes hv, rfl, afterPopf_sameBytes s v, ?flags⟩, fun e he => ?stopped,
    by decide⟩
  case flags =>
    rw [afterPopf_flags, Flags.load_eq]
    refine ⟨rfl, rfl, rfl, rfl, rfl, rfl, rfl, rfl, fun hp => ?protectedMode, fun hp => ?realMode⟩
    case protectedMode => simp [hp]
    case realMode => simp [hp]
  case stopped => rw [exec_popf, he, Try.bind_error, complete_error]

end Sys2Proof.Machine
end

section
/-! PROOFS. The bytes of an r/m operand read back (30_encoding.md R115 to R117): a decoder that reads a ModRM byte and its
displacement reads the operand that was encoded. -/

namespace Sys2Proof

/-! ### The ModRM byte and the displacement -/

@[simp] theorem modField_modrmByte (md : BitVec 2) (reg rm : BitVec 3) : modField (modrmByte md reg rm) = md := by
  rw [modField, modrmByte, BitVec.extractLsb'_append_eq_of_le (by decide), BitVec.extractLsb'_append_eq_left]

@[simp] theorem regField_modrmByte (md : BitVec 2) (reg rm : BitVec 3) : regField (modrmByte md reg rm) = reg := by
  rw [regField, modrmByte, BitVec.extractLsb'_append_eq_of_le (by decide), BitVec.extractLsb'_append_eq_right]

@[simp] theorem rmField_modrmByte (md : BitVec 2) (reg rm : BitVec 3) : rmField (modrmByte md reg rm) = rm :=
  BitVec.extractLsb'_append_eq_right

@[simp] theorem BaseForm.ofBits_toBits (b : BaseForm) : BaseForm.ofBits b.toBits = b := by cases b <;> rfl

@[simp] theorem withWord_wordBytes (w : Word) (t : List Byte) (k : Word → List Byte → Decoded) :
    withWord (wordBytes w ++ t) k = k w t :=
  congrArg (k · t) (Machine.wordOf_lowByte_highByte w)

/-! ### The operand -/

/-- Reading the ModRM byte of a register operand. -/
theorem withModrm_register (reg rm : BitVec 3) (t : List Byte) (k : BitVec 3 → Rm (BitVec 3) → List Byte → Decoded) :
    withModrm (modrmByte 3#2 reg rm :: t) k = k reg (.reg rm) t := by
  simp [withModrm, withByte]

/-- Reading the ModRM byte of a memory operand leaves its displacement to be read. -/
theorem withModrm_memory {md : BitVec 2} (h : md ≠ 3#2) (reg rm : BitVec 3) (t : List Byte)
    (k : BitVec 3 → Rm (BitVec 3) → List Byte → Decoded) :
    withModrm (modrmByte md reg rm :: t) k = withMemOperand md rm t fun m t' => k reg (.mem m) t' := by
  simp [withModrm, withByte]

/-- Without a displacement every base form but BP is read as itself; `rm` = 110 is the plain displacement. -/
theorem withMemOperand_noDisplacement {b : BaseForm} (h : (MemOperand.based b .none).wellFormed = true) (t : List Byte)
    (k : MemOperand → List Byte → Decoded) : withMemOperand 0#2 b.toBits t k = k (.based b .none) t := by
  cases b
  case bp => cases h
  all_goals rfl

theorem withModrm_encodeMem {m : MemOperand} (h : m.wellFormed = true) (reg : BitVec 3) (t : List Byte)
    (k : BitVec 3 → Rm (BitVec 3) → List Byte → Decoded) : withModrm (encodeMem reg m ++ t) k = k reg (.mem m) t := by
  cases m with
  | direct d =>
    rw [encodeMem, List.cons_append, withModrm_memory (by decide)]
    exact withWord_wordBytes d t fun d t => k reg (.mem (.direct d)) t
  | based b disp =>
    cases disp with
    | none =>
      rw [encodeMem, List.cons_append, withModrm_memory (by decide)]
      exact withMemOperand_noDisplacement h t _
    | d8 d =>
      rw [encodeMem, List.cons_append, withModrm_memory (by decide)]
      simp [withMemOperand, withByte]
    | d16 d =>
      rw [encodeMem, List.cons_append, withModrm_memory (by decide)]
      simp [withMemOperand]

/-- A well-formed r/m operand is read back, with its `reg` field and the bytes after it. -/
theorem withModrm_encodeRm {o : Rm (BitVec 3)} (h : o.wellFormed = true) (reg : BitVec 3) (t : List Byte)
    (k : BitVec 3 → Rm (BitVec 3) → List Byte → Decoded) : withModrm (encodeRm reg o ++ t) k = k reg o t := by
  cases o with
  | reg rm => exact withModrm_register reg rm t k
  | mem m => exact withModrm_encodeMem h reg t k

/-! ### The group member 6 of the shift opcodes -/

/-- The shift opcodes without an immediate: a ModRM byte, then the group, whose member 6 is refused (30_encoding.md R120,
R122). -/
theorem decode_shiftOpcode {op : Byte} (h : op ∈ [0xD0#8, 0xD1#8, 0xD2#8, 0xD3#8]) :
    ∃ group, (∀ bytes, decode (op :: bytes) = withModrm bytes group) ∧ ∀ o t, group 6#3 o t = .reject .shiftGroupSix := by
  simp only [List.mem_cons, List.not_mem_nil, or_false] at h
  rcases h with rfl | rfl | rfl | rfl
  · exact ⟨fun reg o t => shiftGroup8One reg (rm8 o) t, fun _ => rfl, fun _ _ => rfl⟩
  · exact ⟨fun reg o t => shiftGroup16One reg (rm16 o) t, fun _ => rfl, fun _ _ => rfl⟩
  · exact ⟨fun reg o t => shiftGroup8Cl reg (rm8 o) t, fun _ => rfl, fun _ _ => rfl⟩
  · exact ⟨fun reg o t => shiftGroup16Cl reg (rm16 o) t, fun _ => rfl, fun _ _ => rfl⟩

/-- The shift opcodes with an immediate: a ModRM byte, the count, then the group, whose member 6 is refused (30_encoding.md R120,
R122; log entry 40). -/
theorem decode_shiftOpcode_imm8 {op : Byte} (h : op ∈ [0xC0#8, 0xC1#8]) :
    ∃ group, (∀ bytes, decode (op :: bytes) = withModrm bytes group) ∧
      ∀ o count t, group 6#3 o (count :: t) = .reject .shiftGroupSix := by
  simp only [List.mem_cons, List.not_mem_nil, or_false] at h
  rcases h with rfl | rfl
  · exact ⟨fun reg o t => withByte t fun count t => shiftGroup8Imm8 reg (rm8 o) count t, fun _ => rfl, fun _ _ _ => rfl⟩
  · exact ⟨fun reg o t => withByte t fun count t => shiftGroup16Imm8 reg (rm16 o) count t, fun _ => rfl, fun _ _ _ => rfl⟩

theorem decode_shiftGroupSix {op : Byte} (hop : op ∈ [0xD0#8, 0xD1#8, 0xD2#8, 0xD3#8]) {o : Rm (BitVec 3)}
    (h : o.wellFormed = true) (t : List Byte) : decode (op :: (encodeRm 6#3 o ++ t)) = .reject .shiftGroupSix := by
  obtain ⟨group, hgroup, hsix⟩ := decode_shiftOpcode hop
  rw [hgroup, withModrm_encodeRm h, hsix]

theorem decode_shiftGroupSix_imm8 {op : Byte} (hop : op ∈ [0xC0#8, 0xC1#8]) {o : Rm (BitVec 3)} (h : o.wellFormed = true)
    (count : Byte) (t : List Byte) : decode (op :: (encodeRm 6#3 o ++ count :: t)) = .reject .shiftGroupSix := by
  obtain ⟨group, hgroup, hsix⟩ := decode_shiftOpcode_imm8 hop
  rw [hgroup, withModrm_encodeRm h, hsix]

end Sys2Proof
end

section
/-! PROOFS. The integer instructions (45_integer_discrepancies.md): PUSH SP, the one-bit steps of the shifts and rotates, the
divide error and NOP. -/

namespace Sys2Proof.Machine

/-! ### The one-bit steps as numbers -/

/-- The bit that a right step shifts out is the operand's remainder by 2. -/
theorem getLsbD_zero_eq_decide {w : Nat} (v : BitVec w) : v.getLsbD 0 = decide (v.toNat % 2 = 1) :=
  Nat.testBit_zero v.toNat

theorem toNat_getLsbD_zero {w : Nat} (v : BitVec w) : (v.getLsbD 0).toNat = v.toNat % 2 := by
  rw [getLsbD_zero_eq_decide]
  rcases Nat.mod_two_eq_zero_or_one v.toNat with h | h <;> rw [h] <;> rfl

section
variable {w : Nat} (hw : 0 < w)
include hw

/-- A bit fits in every operand that has one. -/
theorem bit_lt_two_pow (b : Bool) : b.toNat < 2 ^ w :=
  b.toNat_lt.trans_le (Nat.le_self_pow hw.ne' 2)

theorem toNat_setWidth_ofBool (b : Bool) : ((BitVec.ofBool b).setWidth w).toNat = b.toNat := by
  rw [BitVec.toNat_setWidth, BitVec.toNat_ofBool, Nat.mod_eq_of_lt (bit_lt_two_pow hw b)]

theorem toNat_topBit (b : Bool) : (topBit w b).toNat = b.toNat * 2 ^ (w - 1) := by
  have hlt : b.toNat * 2 ^ (w - 1) < 2 ^ w := by
    rw [← Nat.two_pow_pred_mul_two hw, Nat.mul_comm]
    exact Nat.mul_lt_mul_of_pos_left b.toNat_lt (Nat.two_pow_pos _)
  rw [topBit, BitVec.toNat_shiftLeft, toNat_setWidth_ofBool hw, Nat.shiftLeft_eq, Nat.mod_eq_of_lt hlt]

/-- A left step that takes a bit in at the bottom. -/
theorem toNat_shiftInBottom (v : BitVec w) (b : Bool) :
    (v <<< 1 ||| (BitVec.ofBool b).setWidth w).toNat = (v.toNat * 2 + b.toNat) % 2 ^ w := by
  have hsum : v.toNat * 2 + b.toNat = v.toNat <<< 1 ||| b.toNat := by
    rw [← Nat.shiftLeft_add_eq_or_of_lt b.toNat_lt, Nat.shiftLeft_eq, pow_one]
  rw [BitVec.toNat_or, BitVec.toNat_shiftLeft, toNat_setWidth_ofBool hw, hsum, Nat.or_mod_two_pow,
    Nat.mod_eq_of_lt (bit_lt_two_pow hw b)]

/-- A right step that takes a bit in at the top. -/
theorem toNat_shiftInTop (v : BitVec w) (b : Bool) :
    (v >>> 1 ||| topBit w b).toNat = v.toNat / 2 + b.toNat * 2 ^ (w - 1) := by
  have hlow : v.toNat / 2 < 2 ^ (w - 1) := by
    have hv := v.isLt
    rw [← Nat.two_pow_pred_mul_two hw] at hv
    omega
  rw [BitVec.toNat_or, BitVec.toNat_ushiftRight, toNat_topBit hw, Nat.shiftRight_one, ← Nat.shiftLeft_eq, Nat.lor_comm,
    ← Nat.shiftLeft_add_eq_or_of_lt hlow, Nat.add_comm]

end

/-- Settles O47: each step is a shift that drops a bit and takes one in, or takes none in; the carry is the bit dropped. -/
theorem shiftSteps : Obligations.ShiftSteps := by
  unfold Obligations.ShiftSteps
  refine ⟨fun w v c hw => ?steps, fun o count t ho => ⟨fun op hop => decode_shiftGroupSix hop ho t,
    fun op hop => decode_shiftGroupSix_imm8 hop ho count t⟩⟩
  have hdropped := getLsbD_zero_eq_decide v
  refine ⟨toNat_shiftInBottom hw v v.msb, rfl, ?ror, hdropped, toNat_shiftInBottom hw v c, rfl, toNat_shiftInTop hw v c,
    hdropped, ?shl, rfl, ?shr, hdropped, toNat_shiftInTop hw v v.msb, hdropped⟩
  case ror =>
    rw [← toNat_getLsbD_zero v]
    exact toNat_shiftInTop hw v (v.getLsbD 0)
  case shl => simp [shiftStep, Nat.shiftLeft_eq]
  case shr => simp [shiftStep, Nat.shiftRight_one]

/-! ### PUSH SP -/

theorem exec_pushSp (s : State) : exec .pushSp s = complete s (push s s.regs.sp >>= fun t => pure t.advance) := rfl

/-- In protected mode a stack word outside the limit of a writable entry is exception 12 with error code 0 (20_memory.md
R87). -/
theorem stackAddress_outsideLimit {s : State} {off : Word} (hp : s.prot = true) (hv : s.ss.cache.valid = true)
    (hc : s.ss.cache.code = false) (hw : s.ss.cache.writable = true) (hl : ¬s.ss.cache.inLimit off.toNat 2 = true) :
    stackAddress s off = .error (.trap .stackFault (some 0#16)) := by
  have hwrite : ¬s.ss.cache.deniesWrite .write := by simp [SegCache.deniesWrite, hc, hw]
  have hread : ¬s.ss.cache.deniesRead .write := by simp [SegCache.deniesRead]
  have hfault : limitFault s .ss = .trap .stackFault (some 0#16) := by simp [limitFault, hp]
  rw [stackAddress, ← hfault]
  exact lin_outsideLimit hv hwrite hread hl

/-- Settles O44: PUSH SP is one push of SP, whose stack access alone can stop it; the word at FFFFH, where SP = 1 puts it, is
outside every limit. -/
theorem pushStackPointer : Obligations.PushStackPointer := by
  unfold Obligations.PushStackPointer
  intro s
  have stopped : ∀ e, stackAddress s (s.regs.sp - 2#16) = .error e → exec .pushSp s = endWith s e := fun e he => by
    rw [exec_pushSp, push_error _ he, Try.bind_error, complete_error]
  refine ⟨fun a ha => ⟨?next, wroteWord_pushed s a _ _⟩, stopped, fun hp hv hc hw hd hsp => ?limit, by decide⟩
  case next =>
    rw [exec_pushSp, push_at _ rfl rfl rfl ha, Try.bind_ok]
    rfl
  case limit =>
    have hbeyond : s.ss.cache.limit.toNat < (s.regs.sp - 2#16).toNat + 1 := by
      rcases hsp with hsp | hsp
      · rw [hsp]
        exact s.ss.cache.limit.isLt
      · exact hsp
    have houtside : ¬s.ss.cache.inLimit (s.regs.sp - 2#16).toNat 2 = true := by
      simpa [SegCache.inLimit, hd] using hbeyond
    rw [stopped _ (stackAddress_outsideLimit hp hv hc hw houtside), endWith_trap]

/-! ### The divide error -/

/-- A divide whose quotient is not in range is the divide error in the state before it, whatever it would have left. -/
theorem divide_outOfRange {ρ : Type} {w : Nat} {z : OpSize ρ w} {s : State} {src : Rm ρ} {d : BitVec w}
    {inRange : BitVec w → Bool} {result : BitVec w → Regs} (hd : z.readRm s src = .ok d) (h : inRange d = false) :
    complete s (z.readRm s src >>= fun d => divideEnd s (inRange d) (result d)) = takeException s .divideError none := by
  rw [hd, Try.bind_ok, h, divideEnd, require_false, Try.bind_error, complete_error, endWith_trap]

/-- The range check of DIV fails on a divisor of 0 and on a quotient above the greatest. -/
theorem unsignedQuotient_outOfRange {w n greatest : Nat} {d : BitVec w} (h : d = 0#w ∨ greatest < n / d.toNat) :
    (decide (d.toNat ≠ 0) && decide (n / d.toNat ≤ greatest)) = false := by
  rcases h with rfl | h
  · simp
  · rw [decide_eq_false h.not_ge, Bool.and_false]

/-- The range check of IDIV fails on a divisor of 0 and on a quotient below the least or above the greatest. -/
theorem signedQuotient_outOfRange {w : Nat} {least greatest q : Int} {d : BitVec w}
    (h : d = 0#w ∨ q < least ∨ greatest < q) :
    (decide (d.toInt ≠ 0) && decide (least ≤ q) && decide (q ≤ greatest)) = false := by
  rcases h with rfl | h | h
  · simp
  · rw [decide_eq_false h.not_ge, Bool.and_false, Bool.false_and]
  · rw [decide_eq_false h.not_ge, Bool.and_false]

/-- Settles O52: the four divides end in their range check, which a divisor of 0 and a quotient out of range fail. -/
theorem divideError : Obligations.DivideError := by
  unfold Obligations.DivideError
  refine ⟨fun s src d hd => ⟨fun h => ?div8, fun h => ?idiv8⟩, fun s src d hd => ⟨fun h => ?div16, fun h => ?idiv16⟩, rfl⟩
  case div8 => exact divide_outOfRange hd (unsignedQuotient_outOfRange h)
  case idiv8 => exact divide_outOfRange hd (signedQuotient_outOfRange h)
  case div16 => exact divide_outOfRange hd (unsignedQuotient_outOfRange h)
  case idiv16 => exact divide_outOfRange hd (signedQuotient_outOfRange h)

/-! ### NOP -/

/-- The end of an instruction writes no byte. -/
theorem State.ended_sameBytes (s : State) : SameBytes s s.ended := .of_mem rfl rfl rfl

/-- Settles O45: NOP is the end of an instruction and no more. -/
theorem noOperation : Obligations.NoOperation := by
  unfold Obligations.NoOperation
  exact fun s => ⟨rfl, s.ended_sameBytes, rfl, rfl, by decide⟩

end Sys2Proof.Machine
end

section
/-! PROOFS. The decoder and the encoder (30_encoding.md R111 to R124): the bytes of a well-formed instruction read back, what is
read is the one encoding of a well-formed instruction, and the reserved and excluded encodings are refused by name. -/

namespace Sys2Proof

/-! ### The operands read back -/

@[simp] theorem Reg8.ofBits_toBits (r : Reg8) : Reg8.ofBits r.toBits = r := by cases r <;> rfl
@[simp] theorem Reg16.ofBits_toBits (r : Reg16) : Reg16.ofBits r.toBits = r := by cases r <;> rfl
@[simp] theorem SegReg.ofBits_toBits (r : SegReg) : SegReg.ofBits r.toBits = some r := by cases r <;> rfl

@[simp] theorem rm8_map_toBits (o : Rm Reg8) : rm8 (o.map Reg8.toBits) = o := by
  cases o with
  | reg r => exact congrArg Rm.reg r.ofBits_toBits
  | mem m => rfl

@[simp] theorem rm16_map_toBits (o : Rm Reg16) : rm16 (o.map Reg16.toBits) = o := by
  cases o with
  | reg r => exact congrArg Rm.reg r.ofBits_toBits
  | mem m => rfl

@[simp] theorem Rm.wellFormed_map {ρ σ : Type} (f : ρ → σ) (o : Rm ρ) : (o.map f).wellFormed = o.wellFormed := by
  cases o <;> rfl

theorem withModrm_encodeRm8 {o : Rm Reg8} (h : o.wellFormed = true) (reg : BitVec 3) (t : List Byte)
    (k : BitVec 3 → Rm (BitVec 3) → List Byte → Decoded) :
    withModrm (encodeRm8 reg o ++ t) k = k reg (o.map Reg8.toBits) t :=
  withModrm_encodeRm (by rwa [Rm.wellFormed_map]) reg t k

theorem withModrm_encodeRm16 {o : Rm Reg16} (h : o.wellFormed = true) (reg : BitVec 3) (t : List Byte)
    (k : BitVec 3 → Rm (BitVec 3) → List Byte → Decoded) :
    withModrm (encodeRm16 reg o ++ t) k = k reg (o.map Reg16.toBits) t :=
  withModrm_encodeRm (by rwa [Rm.wellFormed_map]) reg t k

/-! ### The opcodes that hold a field -/

@[simp] theorem extractLsb'_high_append (a : BitVec 5) (b : BitVec 3) : (a ++ b : BitVec 8).extractLsb' 3 5 = a :=
  BitVec.extractLsb'_append_eq_left

@[simp] theorem extractLsb'_low_append (a : BitVec 5) (b : BitVec 3) : (a ++ b : BitVec 8).extractLsb' 0 3 = b :=
  BitVec.extractLsb'_append_eq_right

theorem decode_escapeOpcode (op : BitVec 3) (t : List Byte) :
    decode ((0x1B#5 ++ op : BitVec 8) :: t) = withModrm t fun reg o t => escape op reg o t := by
  simp [decode]

theorem escape_general {op reg : BitVec 3} {o : Rm (BitVec 3)} (h : isControlEscape op reg o = false) (t : List Byte) :
    escape op reg o t = .instr (.esc op reg o) t := by
  rw [escape, h, if_neg Bool.false_ne_true]

/-! ### The opcodes with an r/m operand -/

theorem decode_10H (t : List Byte) :
    decode (0x10#8 :: t) = withModrm t fun reg o t => .instr (.adcRm8R8 (rm8 o) (Reg8.ofBits reg)) t := rfl
theorem decode_11H (t : List Byte) :
    decode (0x11#8 :: t) = withModrm t fun reg o t => .instr (.adcRm16R16 (rm16 o) (Reg16.ofBits reg)) t := rfl
theorem decode_12H (t : List Byte) :
    decode (0x12#8 :: t) = withModrm t fun reg o t => .instr (.adcR8Rm8 (Reg8.ofBits reg) (rm8 o)) t := rfl
theorem decode_13H (t : List Byte) :
    decode (0x13#8 :: t) = withModrm t fun reg o t => .instr (.adcR16Rm16 (Reg16.ofBits reg) (rm16 o)) t := rfl
theorem decode_18H (t : List Byte) :
    decode (0x18#8 :: t) = withModrm t fun reg o t => .instr (.sbbRm8R8 (rm8 o) (Reg8.ofBits reg)) t := rfl
theorem decode_19H (t : List Byte) :
    decode (0x19#8 :: t) = withModrm t fun reg o t => .instr (.sbbRm16R16 (rm16 o) (Reg16.ofBits reg)) t := rfl
theorem decode_1AH (t : List Byte) :
    decode (0x1A#8 :: t) = withModrm t fun reg o t => .instr (.sbbR8Rm8 (Reg8.ofBits reg) (rm8 o)) t := rfl
theorem decode_1BH (t : List Byte) :
    decode (0x1B#8 :: t) = withModrm t fun reg o t => .instr (.sbbR16Rm16 (Reg16.ofBits reg) (rm16 o)) t := rfl
theorem decode_80H (t : List Byte) :
    decode (0x80#8 :: t) = withModrm t fun reg o t => withByte t fun imm t => arithGroup80 reg (rm8 o) imm t := rfl
theorem decode_81H (t : List Byte) :
    decode (0x81#8 :: t) = withModrm t fun reg o t => withWord t fun imm t => arithGroup81 reg (rm16 o) imm t := rfl
theorem decode_83H (t : List Byte) :
    decode (0x83#8 :: t) = withModrm t fun reg o t => withByte t fun imm t => arithGroup83 reg (rm16 o) imm t := rfl
theorem decode_86H (t : List Byte) :
    decode (0x86#8 :: t) = withModrm t fun reg o t => .instr (.xchgRm8R8 (rm8 o) (Reg8.ofBits reg)) t := rfl
theorem decode_87H (t : List Byte) :
    decode (0x87#8 :: t) = withModrm t fun reg o t => .instr (.xchgRm16R16 (rm16 o) (Reg16.ofBits reg)) t := rfl
theorem decode_88H (t : List Byte) :
    decode (0x88#8 :: t) = withModrm t fun reg o t => .instr (.movRm8R8 (rm8 o) (Reg8.ofBits reg)) t := rfl
theorem decode_89H (t : List Byte) :
    decode (0x89#8 :: t) = withModrm t fun reg o t => .instr (.movRm16R16 (rm16 o) (Reg16.ofBits reg)) t := rfl
theorem decode_8AH (t : List Byte) :
    decode (0x8A#8 :: t) = withModrm t fun reg o t => .instr (.movR8Rm8 (Reg8.ofBits reg) (rm8 o)) t := rfl
theorem decode_8BH (t : List Byte) :
    decode (0x8B#8 :: t) = withModrm t fun reg o t => .instr (.movR16Rm16 (Reg16.ofBits reg) (rm16 o)) t := rfl
theorem decode_8CH (t : List Byte) : decode (0x8C#8 :: t) = withModrm t fun reg o t => movFromSreg reg (rm16 o) t := rfl
theorem decode_8EH (t : List Byte) : decode (0x8E#8 :: t) = withModrm t fun reg o t => movToSreg reg (rm16 o) t := rfl
theorem decode_C0H (t : List Byte) :
    decode (0xC0#8 :: t) = withModrm t fun reg o t => withByte t fun count t => shiftGroup8Imm8 reg (rm8 o) count t := rfl
theorem decode_C1H (t : List Byte) :
    decode (0xC1#8 :: t) = withModrm t fun reg o t => withByte t fun count t => shiftGroup16Imm8 reg (rm16 o) count t := rfl
theorem decode_C4H (t : List Byte) : decode (0xC4#8 :: t) = withModrm t fun reg o t => farPointerLoad .les reg o t := rfl
theorem decode_C5H (t : List Byte) : decode (0xC5#8 :: t) = withModrm t fun reg o t => farPointerLoad .lds reg o t := rfl
theorem decode_D0H (t : List Byte) : decode (0xD0#8 :: t) = withModrm t fun reg o t => shiftGroup8One reg (rm8 o) t := rfl
theorem decode_D1H (t : List Byte) : decode (0xD1#8 :: t) = withModrm t fun reg o t => shiftGroup16One reg (rm16 o) t := rfl
theorem decode_D2H (t : List Byte) : decode (0xD2#8 :: t) = withModrm t fun reg o t => shiftGroup8Cl reg (rm8 o) t := rfl
theorem decode_D3H (t : List Byte) : decode (0xD3#8 :: t) = withModrm t fun reg o t => shiftGroup16Cl reg (rm16 o) t := rfl
theorem decode_F6H (t : List Byte) : decode (0xF6#8 :: t) = withModrm t fun reg o t => unaryGroupF6 reg (rm8 o) t := rfl
theorem decode_F7H (t : List Byte) : decode (0xF7#8 :: t) = withModrm t fun reg o t => unaryGroupF7 reg (rm16 o) t := rfl

/-- Settles O4: the first byte selects the row; the ModRM byte, the displacement and the immediate read back. -/
theorem decodeOfEncode : Obligations.DecodeOfEncode := by
  unfold Obligations.DecodeOfEncode
  intro i rest h
  cases i
  case popEs | loadall | adcAlImm8 | popSs | sbbAlImm8 | popDs | esPrefix | csPrefix | ssPrefix | dsPrefix | pushSp | nop |
      wait | pushf | popf | int3 | intImm8 | iret | fninit | fsetpm | inAlImm8 | inAxImm8 | outImm8Al | outImm8Ax | jmpRel8 |
      inAlDx | inAxDx | outDxAl | outDxAx | lock | cli | sti => rfl
  case adcAxImm16 | sbbAxImm16 | jmpRel16 | jmpFar => simp [encode, decode, decodeSingle]
  case adcRm8R8 | adcR8Rm8 | sbbRm8R8 | sbbR8Rm8 | xchgRm8R8 | movRm8R8 | movR8Rm8 |
      rolRm8One | rorRm8One | rclRm8One | rcrRm8One | shlRm8One | shrRm8One | sarRm8One |
      rolRm8Cl | rorRm8Cl | rclRm8Cl | rcrRm8Cl | shlRm8Cl | shrRm8Cl | sarRm8Cl | divRm8 | idivRm8 =>
    have h : Rm.wellFormed _ = true := h
    simp [encode, decode_10H, decode_12H, decode_18H, decode_1AH, decode_86H, decode_88H, decode_8AH, decode_D0H,
      decode_D2H, decode_F6H, withModrm_encodeRm8 h, shiftGroup8One, shiftGroup8Cl, unaryGroupF6]
  case adcRm16R16 | adcR16Rm16 | sbbRm16R16 | sbbR16Rm16 | xchgRm16R16 | movRm16R16 | movR16Rm16 |
      rolRm16One | rorRm16One | rclRm16One | rcrRm16One | shlRm16One | shrRm16One | sarRm16One |
      rolRm16Cl | rorRm16Cl | rclRm16Cl | rcrRm16Cl | shlRm16Cl | shrRm16Cl | sarRm16Cl | divRm16 | idivRm16 =>
    have h : Rm.wellFormed _ = true := h
    simp [encode, decode_11H, decode_13H, decode_19H, decode_1BH, decode_87H, decode_89H, decode_8BH, decode_D1H,
      decode_D3H, decode_F7H, withModrm_encodeRm16 h, shiftGroup16One, shiftGroup16Cl, unaryGroupF7]
  case adcRm8Imm8 | sbbRm8Imm8 | rolRm8Imm8 | rorRm8Imm8 | rclRm8Imm8 | rcrRm8Imm8 | shlRm8Imm8 | shrRm8Imm8 | sarRm8Imm8 =>
    have h : Rm.wellFormed _ = true := h
    simp [encode, decode_80H, decode_C0H, withModrm_encodeRm8 h, withByte, arithGroup80, shiftGroup8Imm8]
  case adcRm16Imm16 | sbbRm16Imm16 | adcRm16SextImm8 | sbbRm16SextImm8 |
      rolRm16Imm8 | rorRm16Imm8 | rclRm16Imm8 | rcrRm16Imm8 | shlRm16Imm8 | shrRm16Imm8 | sarRm16Imm8 =>
    have h : Rm.wellFormed _ = true := h
    simp [encode, decode_81H, decode_83H, decode_C1H, withModrm_encodeRm16 h, withByte, arithGroup81, arithGroup83,
      shiftGroup16Imm8]
  case les | lds =>
    have h : MemOperand.wellFormed _ = true := h
    simp [encode, decode_C4H, decode_C5H, withModrm_encodeMem h, farPointerLoad]
  case movRm16Sreg dst src =>
    have h : Rm.wellFormed _ = true := h
    simp [encode, decode_8CH, withModrm_encodeRm16 h, movFromSreg]
  case movSregRm16 dst src =>
    simp only [Instr.wellFormed, Bool.and_eq_true] at h
    simp [encode, decode_8EH, withModrm_encodeRm16 h.2, movToSreg]
    cases dst <;> simp_all
  case xchgAxR16 src =>
    cases src <;> simp_all [Instr.wellFormed]
    all_goals rfl
  case esc op reg operand =>
    simp only [Instr.wellFormed, Bool.and_eq_true, Bool.not_eq_true'] at h
    rw [encode, List.cons_append, decode_escapeOpcode, withModrm_encodeRm h.1, escape_general h.2]

/-! ### What is read is an encoding -/

/-- What `d` reads as an instruction is a well-formed one whose encoding, with the rest, is `bs`. -/
def Decoded.EncodedBy (d : Decoded) (bs : List Byte) : Prop :=
  ∀ i rest, d = .instr i rest → i.wellFormed = true ∧ encode i ++ rest = bs

theorem Decoded.EncodedBy.reject (r : Reject) (bs : List Byte) : (Decoded.reject r).EncodedBy bs := by rintro _ _ ⟨⟩
theorem Decoded.EncodedBy.short (bs : List Byte) : Decoded.short.EncodedBy bs := by rintro _ _ ⟨⟩

theorem Decoded.EncodedBy.instr {i : Instr} {t bs : List Byte} (hw : i.wellFormed = true) (h : encode i ++ t = bs) :
    (Decoded.instr i t).EncodedBy bs := by
  rintro _ _ ⟨⟩
  exact ⟨hw, h⟩

theorem withByte_encodedBy {bs all : List Byte} {k : Byte → List Byte → Decoded}
    (h : ∀ b t, bs = b :: t → (k b t).EncodedBy all) : (withByte bs k).EncodedBy all := by
  cases bs with
  | nil => exact .short _
  | cons b t => exact h b t rfl

@[simp] theorem lowByte_wordOf (lo hi : Byte) : lowByte (wordOf lo hi) = lo := Machine.lowByte_wordOf lo hi

theorem withWord_encodedBy {bs all : List Byte} {k : Word → List Byte → Decoded}
    (h : ∀ w t, bs = wordBytes w ++ t → (k w t).EncodedBy all) : (withWord bs k).EncodedBy all := by
  match bs with
  | [] => exact .short _
  | [_] => exact .short _
  | lo :: hi :: t => exact h (wordOf lo hi) t (by simp [wordBytes])

theorem eq_modrmByte (m : Byte) : m = modrmByte (modField m) (regField m) (rmField m) := by
  rw [modrmByte, modField, regField, rmField, BitVec.extractLsb'_append_extractLsb'_eq_extractLsb' (by decide),
    BitVec.extractLsb'_append_extractLsb'_eq_extractLsb' (by decide)]
  exact BitVec.extractLsb'_eq_self.symm

@[simp] theorem BaseForm.toBits_ofBits (b : BitVec 3) : (BaseForm.ofBits b).toBits = b := by
  revert b; decide

theorem withMemOperand_encodedBy {md : BitVec 2} {rm : BitVec 3} {bs all : List Byte}
    {k : MemOperand → List Byte → Decoded} (hmd : md ≠ 3#2) (reg : BitVec 3)
    (h : ∀ m t, m.wellFormed = true → modrmByte md reg rm :: bs = encodeMem reg m ++ t → (k m t).EncodedBy all) :
    (withMemOperand md rm bs k).EncodedBy all := by
  unfold withMemOperand
  split
  · split
    · refine withWord_encodedBy fun d t e => h _ _ rfl ?_
      rw [e]; rfl
    · rename_i hrm
      refine h _ _ ?_ ?_
      · have hbp : BaseForm.ofBits rm ≠ .bp := by
          clear h
          revert rm
          decide
        cases hb : BaseForm.ofBits rm
        case bp => exact absurd hb hbp
        all_goals rfl
      · simp [encodeMem]
  · refine withByte_encodedBy fun d t e => h _ _ ?_ ?_
    · cases BaseForm.ofBits rm <;> rfl
    · simp [e, encodeMem]
  · refine withWord_encodedBy fun d t e => h _ _ ?_ ?_
    · cases BaseForm.ofBits rm <;> rfl
    · have : md = 2#2 := by
        clear h
        revert md
        decide
      simp [e, encodeMem, this]

theorem withModrm_encodedBy {bs all : List Byte} {k : BitVec 3 → Rm (BitVec 3) → List Byte → Decoded}
    (h : ∀ reg o t, o.wellFormed = true → bs = encodeRm reg o ++ t → (k reg o t).EncodedBy all) :
    (withModrm bs k).EncodedBy all := by
  refine withByte_encodedBy fun m t e => ?_
  subst e
  split
  · rename_i hm
    refine h _ _ _ rfl ?_
    conv_lhs => rw [eq_modrmByte m, hm]
    rfl
  · rename_i hm
    refine withMemOperand_encodedBy hm (regField m) fun o t' ho e => h _ _ _ ho ?_
    rw [← eq_modrmByte m] at e
    exact e

theorem eq_high_append_low (m : Byte) : m = m.extractLsb' 3 5 ++ m.extractLsb' 0 3 := by
  rw [BitVec.extractLsb'_append_extractLsb'_eq_extractLsb' (by decide)]
  exact BitVec.extractLsb'_eq_self.symm

@[simp] theorem Reg8.toBits_ofBits (b : BitVec 3) : (Reg8.ofBits b).toBits = b := by revert b; decide
@[simp] theorem Reg16.toBits_ofBits (b : BitVec 3) : (Reg16.ofBits b).toBits = b := by revert b; decide
theorem SegReg.toBits_of_ofBits {b : BitVec 3} {r : SegReg} (h : SegReg.ofBits b = some r) : r.toBits = b := by
  revert b r; decide

@[simp] theorem encodeRm8_rm8 (reg : BitVec 3) (o : Rm (BitVec 3)) : encodeRm8 reg (rm8 o) = encodeRm reg o := by
  cases o with
  | reg r => simp [encodeRm8, rm8, Rm.map]
  | mem m => rfl

@[simp] theorem encodeRm16_rm16 (reg : BitVec 3) (o : Rm (BitVec 3)) : encodeRm16 reg (rm16 o) = encodeRm reg o := by
  cases o with
  | reg r => simp [encodeRm16, rm16, Rm.map]
  | mem m => rfl

theorem encodeRm8_ofBits (reg : BitVec 3) (o : Rm (BitVec 3)) :
    encodeRm8 (Reg8.ofBits reg).toBits (rm8 o) = encodeRm reg o := by simp

theorem encodeRm16_ofBits (reg : BitVec 3) (o : Rm (BitVec 3)) :
    encodeRm16 (Reg16.ofBits reg).toBits (rm16 o) = encodeRm reg o := by simp

@[simp] theorem rm8_wellFormed (o : Rm (BitVec 3)) : (rm8 o).wellFormed = o.wellFormed := Rm.wellFormed_map _ o
@[simp] theorem rm16_wellFormed (o : Rm (BitVec 3)) : (rm16 o).wellFormed = o.wellFormed := Rm.wellFormed_map _ o

theorem escape_encodedBy {op reg : BitVec 3} {o : Rm (BitVec 3)} (h : o.wellFormed = true) (t : List Byte) :
    (escape op reg o t).EncodedBy ((0x1B#5 ++ op : BitVec 8) :: (encodeRm reg o ++ t)) := by
  cases hc : isControlEscape op reg o with
  | false =>
    rw [escape_general hc]
    exact .instr (by simp [Instr.wellFormed, h, hc]) rfl
  | true =>
    cases o with
    | mem m => cases hc
    | reg rm =>
      simp only [isControlEscape, Bool.and_eq_true, Bool.or_eq_true, beq_iff_eq] at hc
      obtain ⟨⟨rfl, rfl⟩, rfl | rfl⟩ := hc
      · exact .instr rfl rfl
      · exact .instr rfl rfl

section
variable {o : Rm (BitVec 3)} (h : o.wellFormed = true) (reg : BitVec 3) (t : List Byte)
include h

theorem shiftGroup8One_encodedBy : (shiftGroup8One reg (rm8 o) t).EncodedBy (0xD0#8 :: (encodeRm reg o ++ t)) := by
  have ho : (rm8 o).wellFormed = true := by rwa [rm8_wellFormed]
  unfold shiftGroup8One
  split
  any_goals exact .reject _ _
  all_goals exact .instr ho (by simp [encode])

theorem shiftGroup8Cl_encodedBy : (shiftGroup8Cl reg (rm8 o) t).EncodedBy (0xD2#8 :: (encodeRm reg o ++ t)) := by
  have ho : (rm8 o).wellFormed = true := by rwa [rm8_wellFormed]
  unfold shiftGroup8Cl
  split
  any_goals exact .reject _ _
  all_goals exact .instr ho (by simp [encode])

theorem shiftGroup16One_encodedBy : (shiftGroup16One reg (rm16 o) t).EncodedBy (0xD1#8 :: (encodeRm reg o ++ t)) := by
  have ho : (rm16 o).wellFormed = true := by rwa [rm16_wellFormed]
  unfold shiftGroup16One
  split
  any_goals exact .reject _ _
  all_goals exact .instr ho (by simp [encode])

theorem shiftGroup16Cl_encodedBy : (shiftGroup16Cl reg (rm16 o) t).EncodedBy (0xD3#8 :: (encodeRm reg o ++ t)) := by
  have ho : (rm16 o).wellFormed = true := by rwa [rm16_wellFormed]
  unfold shiftGroup16Cl
  split
  any_goals exact .reject _ _
  all_goals exact .instr ho (by simp [encode])

theorem unaryGroupF6_encodedBy : (unaryGroupF6 reg (rm8 o) t).EncodedBy (0xF6#8 :: (encodeRm reg o ++ t)) := by
  have ho : (rm8 o).wellFormed = true := by rwa [rm8_wellFormed]
  unfold unaryGroupF6
  split
  any_goals exact .reject _ _
  all_goals exact .instr ho (by simp [encode])

theorem unaryGroupF7_encodedBy : (unaryGroupF7 reg (rm16 o) t).EncodedBy (0xF7#8 :: (encodeRm reg o ++ t)) := by
  have ho : (rm16 o).wellFormed = true := by rwa [rm16_wellFormed]
  unfold unaryGroupF7
  split
  any_goals exact .reject _ _
  all_goals exact .instr ho (by simp [encode])

theorem shiftGroup8Imm8_encodedBy :
    (withByte t fun b t => shiftGroup8Imm8 reg (rm8 o) b t).EncodedBy (0xC0#8 :: (encodeRm reg o ++ t)) := by
  apply withByte_encodedBy
  rintro b t rfl
  have ho : (rm8 o).wellFormed = true := by rwa [rm8_wellFormed]
  unfold shiftGroup8Imm8
  split
  any_goals exact .reject _ _
  all_goals exact .instr ho (by simp [encode])

theorem shiftGroup16Imm8_encodedBy :
    (withByte t fun b t => shiftGroup16Imm8 reg (rm16 o) b t).EncodedBy (0xC1#8 :: (encodeRm reg o ++ t)) := by
  apply withByte_encodedBy
  rintro b t rfl
  have ho : (rm16 o).wellFormed = true := by rwa [rm16_wellFormed]
  unfold shiftGroup16Imm8
  split
  any_goals exact .reject _ _
  all_goals exact .instr ho (by simp [encode])

theorem arithGroup80_encodedBy :
    (withByte t fun b t => arithGroup80 reg (rm8 o) b t).EncodedBy (0x80#8 :: (encodeRm reg o ++ t)) := by
  apply withByte_encodedBy
  rintro b t rfl
  have ho : (rm8 o).wellFormed = true := by rwa [rm8_wellFormed]
  unfold arithGroup80
  split
  any_goals exact .reject _ _
  all_goals exact .instr ho (by simp [encode])

theorem arithGroup81_encodedBy :
    (withWord t fun b t => arithGroup81 reg (rm16 o) b t).EncodedBy (0x81#8 :: (encodeRm reg o ++ t)) := by
  apply withWord_encodedBy
  rintro b t rfl
  have ho : (rm16 o).wellFormed = true := by rwa [rm16_wellFormed]
  unfold arithGroup81
  split
  any_goals exact .reject _ _
  all_goals exact .instr ho (by simp [encode])

theorem arithGroup83_encodedBy :
    (withByte t fun b t => arithGroup83 reg (rm16 o) b t).EncodedBy (0x83#8 :: (encodeRm reg o ++ t)) := by
  apply withByte_encodedBy
  rintro b t rfl
  have ho : (rm16 o).wellFormed = true := by rwa [rm16_wellFormed]
  unfold arithGroup83
  split
  any_goals exact .reject _ _
  all_goals exact .instr ho (by simp [encode])

theorem movFromSreg_encodedBy : (movFromSreg reg (rm16 o) t).EncodedBy (0x8C#8 :: (encodeRm reg o ++ t)) := by
  unfold movFromSreg
  split
  next r hr => exact .instr (by simpa [Instr.wellFormed] using h) (by simp [encode, SegReg.toBits_of_ofBits hr])
  next => exact .reject _ _

theorem movToSreg_encodedBy : (movToSreg reg (rm16 o) t).EncodedBy (0x8E#8 :: (encodeRm reg o ++ t)) := by
  unfold movToSreg
  split
  next => exact .reject _ _
  next r hcs hr =>
    exact .instr (by simpa [Instr.wellFormed, h] using hcs) (by simp [encode, SegReg.toBits_of_ofBits hr])
  next => exact .reject _ _

/-- The group C4H, C5H: the pointer is in memory. -/
theorem farPointerLoad_encodedBy {op : Byte} {build : Reg16 → MemOperand → Instr}
    (hw : ∀ r m, (build r m).wellFormed = m.wellFormed) (he : ∀ r m, encode (build r m) = op :: encodeMem r.toBits m) :
    (farPointerLoad build reg o t).EncodedBy (op :: (encodeRm reg o ++ t)) := by
  cases o with
  | reg r => exact .reject _ _
  | mem m => exact .instr ((hw _ m).trans h) (by simp [he, encodeRm])

end

theorem decodeTwoByte_encodedBy (t : List Byte) : (decodeTwoByte t).EncodedBy (0x0F#8 :: t) := by
  refine withByte_encodedBy fun b t e => ?_
  subst e
  split
  case h_5 => exact .instr rfl rfl
  case h_1 | h_2 => exact withByte_encodedBy fun _ _ _ => .reject _ _
  all_goals exact .reject _ _

theorem decodeSingle_encodedBy (op : Byte) (t : List Byte) : (decodeSingle op t).EncodedBy (op :: t) := by
  unfold decodeSingle
  split
  -- the opcodes of one byte, and those refused
  any_goals exact .instr rfl rfl
  any_goals exact .reject _ _
  case h_2 => exact decodeTwoByte_encodedBy t
  -- the opcodes with an r/m operand
  any_goals
    apply withModrm_encodedBy
    rintro reg o t ho rfl
  case h_3 | h_5 | h_10 | h_12 | h_25 | h_27 | h_29 =>
    exact .instr ((rm8_wellFormed o).trans ho) (congrArg (_ :: · ++ t) (encodeRm8_ofBits reg o))
  case h_4 | h_6 | h_11 | h_13 | h_26 | h_28 | h_30 =>
    exact .instr ((rm16_wellFormed o).trans ho) (congrArg (_ :: · ++ t) (encodeRm16_ofBits reg o))
  case h_22 => exact arithGroup80_encodedBy ho reg t
  case h_23 => exact arithGroup81_encodedBy ho reg t
  case h_24 => exact arithGroup83_encodedBy ho reg t
  case h_31 => exact movFromSreg_encodedBy ho reg t
  case h_32 => exact movToSreg_encodedBy ho reg t
  case h_37 => exact shiftGroup8Imm8_encodedBy ho reg t
  case h_38 => exact shiftGroup16Imm8_encodedBy ho reg t
  case h_44 => exact shiftGroup8One_encodedBy ho reg t
  case h_45 => exact shiftGroup16One_encodedBy ho reg t
  case h_46 => exact shiftGroup8Cl_encodedBy ho reg t
  case h_47 => exact shiftGroup16Cl_encodedBy ho reg t
  case h_62 => exact unaryGroupF6_encodedBy ho reg t
  case h_63 => exact unaryGroupF7_encodedBy ho reg t
  case h_39 | h_40 => exact farPointerLoad_encodedBy ho reg t (fun _ _ => rfl) fun _ _ => rfl
  -- the opcodes with an immediate and no r/m operand
  case h_7 | h_14 | h_42 | h_48 | h_49 | h_50 | h_51 | h_54 =>
    apply withByte_encodedBy
    rintro imm t rfl
    exact .instr rfl rfl
  case h_8 | h_15 | h_52 =>
    apply withWord_encodedBy
    rintro imm t rfl
    exact .instr rfl rfl
  case h_53 =>
    apply withWord_encodedBy
    rintro off t rfl
    apply withWord_encodedBy
    rintro seg t rfl
    exact .instr rfl rfl
  all_goals exact withByte_encodedBy fun _ _ _ => .reject _ _

/-- Settles O5: what is read of each row is its encoding. -/
theorem encodeOfDecode : Obligations.EncodeOfDecode := by
  unfold Obligations.EncodeOfDecode
  intro bytes i rest h
  suffices hd : (decode bytes).EncodedBy bytes from hd i rest h
  cases bytes with
  | nil => exact .short _
  | cons op t =>
    have hop := eq_high_append_low op
    simp only [decode]
    split
    next h5 =>
      rw [h5] at hop
      refine withModrm_encodedBy fun reg o t' ho e => ?_
      subst e
      conv => arg 2; rw [hop]
      exact escape_encodedBy ho t'
    next =>
      split
      next hx =>
        rw [hx.1] at hop
        refine .instr ?_ ?_
        · have hr : Reg16.ofBits (op.extractLsb' 0 3) ≠ .ax := fun e =>
            hx.2 (by rw [← Reg16.toBits_ofBits (op.extractLsb' 0 3), e]; rfl)
          simpa [Instr.wellFormed] using hr
        · conv => rhs; rw [hop]
          simp [encode]
      next => exact decodeSingle_encodedBy op t

/-! ### Reserved and excluded encodings -/

/-- The first byte of an r/m operand holds the `reg` field. -/
theorem encodeRm_eq_cons (reg : BitVec 3) (o : Rm (BitVec 3)) : ∃ m u, encodeRm reg o = m :: u ∧ regField m = reg := by
  cases o with
  | reg r => exact ⟨_, _, rfl, by simp⟩
  | mem m =>
    cases m with
    | direct d => exact ⟨_, _, rfl, by simp⟩
    | based b disp => cases disp <;> exact ⟨_, _, rfl, by simp⟩

/-- A segment register field of 4 to 7 names no register. -/
theorem SegReg.ofBits_none {reg : BitVec 3} (h : 4#3 ≤ reg) : SegReg.ofBits reg = none := by
  revert reg
  decide

section
variable {o : Rm (BitVec 3)} (ho : o.wellFormed = true)
include ho

theorem decode_segmentField {op : Byte} (hop : op ∈ [0x8C#8, 0x8E#8]) {reg : BitVec 3} (hr : 4#3 ≤ reg) (t : List Byte) :
    decode (op :: (encodeRm reg o ++ t)) = .reject (.segmentField reg) := by
  have hnone := SegReg.ofBits_none hr
  simp only [List.mem_cons, List.not_mem_nil, or_false] at hop
  rcases hop with rfl | rfl
  · rw [decode_8CH, withModrm_encodeRm ho, movFromSreg, hnone]
  · rw [decode_8EH, withModrm_encodeRm ho, movToSreg, hnone]

theorem decode_arithmeticGroupMember_imm8 {op : Byte} (hop : op ∈ [0x80#8, 0x83#8]) {reg : BitVec 3} (h2 : reg ≠ 2#3)
    (h3 : reg ≠ 3#3) (imm : Byte) (t : List Byte) :
    decode (op :: (encodeRm reg o ++ imm :: t)) = .reject (.arithmeticGroupMember reg) := by
  simp only [List.mem_cons, List.not_mem_nil, or_false] at hop
  rcases hop with rfl | rfl
  · rw [decode_80H, withModrm_encodeRm ho, withByte, arithGroup80]
    exact h2
    exact h3
  · rw [decode_83H, withModrm_encodeRm ho, withByte, arithGroup83]
    exact h2
    exact h3

theorem decode_arithmeticGroupMember_imm16 {reg : BitVec 3} (h2 : reg ≠ 2#3) (h3 : reg ≠ 3#3) (w : Word) (t : List Byte) :
    decode (0x81#8 :: (encodeRm reg o ++ (wordBytes w ++ t))) = .reject (.arithmeticGroupMember reg) := by
  rw [decode_81H, withModrm_encodeRm ho, withWord_wordBytes, arithGroup81]
  exact h2
  exact h3

theorem decode_unaryGroupMember {op : Byte} (hop : op ∈ [0xF6#8, 0xF7#8]) {reg : BitVec 3} (h6 : reg ≠ 6#3)
    (h7 : reg ≠ 7#3) (t : List Byte) : decode (op :: (encodeRm reg o ++ t)) = .reject (.unaryGroupMember reg) := by
  simp only [List.mem_cons, List.not_mem_nil, or_false] at hop
  rcases hop with rfl | rfl
  · rw [decode_F6H, withModrm_encodeRm ho, unaryGroupF6]
    exact h6
    exact h7
  · rw [decode_F7H, withModrm_encodeRm ho, unaryGroupF7]
    exact h6
    exact h7

end

/-- The groups 0FH 00H and 0FH 01H are refused on the `reg` field of their ModRM byte. -/
theorem decode_twoByteGroup00 (reg : BitVec 3) (o : Rm (BitVec 3)) (t : List Byte) :
    decode (0x0F#8 :: 0x00#8 :: (encodeRm reg o ++ t)) = .reject (excludedGroup00 reg) := by
  obtain ⟨m, u, he, rfl⟩ := encodeRm_eq_cons reg o
  rw [he]
  rfl

theorem decode_twoByteGroup01 (reg : BitVec 3) (o : Rm (BitVec 3)) (t : List Byte) :
    decode (0x0F#8 :: 0x01#8 :: (encodeRm reg o ++ t)) = .reject (excludedGroup01 reg) := by
  obtain ⟨m, u, he, rfl⟩ := encodeRm_eq_cons reg o
  rw [he]
  rfl

theorem decode_farPointerRegister {op : Byte} (hop : op ∈ [0xC4#8, 0xC5#8]) (reg rm : BitVec 3) (t : List Byte) :
    decode (op :: (encodeRm reg (.reg rm) ++ t)) = .reject .farPointerRegister := by
  simp only [List.mem_cons, List.not_mem_nil, or_false] at hop
  rcases hop with rfl | rfl
  · rw [decode_C4H, withModrm_encodeRm rfl, farPointerLoad]
  · rw [decode_C5H, withModrm_encodeRm rfl, farPointerLoad]

/-- Settles O7: the operand reads back, and then the `reg` field, or before that the opcode alone, refuses. -/
theorem refusedEncodings : Obligations.RefusedEncodings := by
  unfold Obligations.RefusedEncodings
  intro o imm word t ho
  refine ⟨fun op hop => decode_shiftGroupSix_imm8 hop ho imm t, fun op hop => decode_shiftGroupSix hop ho t, ?movIntoCs,
    fun op hop reg hr => decode_segmentField ho hop hr t, fun op hop reg rm => decode_farPointerRegister hop reg rm t,
    fun op hop reg h2 h3 => decode_arithmeticGroupMember_imm8 ho hop h2 h3 imm t,
    fun reg h2 h3 => decode_arithmeticGroupMember_imm16 ho h2 h3 word t,
    fun op hop reg h6 h7 => decode_unaryGroupMember ho hop h6 h7 t, ?repeatPrefix, ?oneByte, ?twoBytes, ?groups⟩
  case movIntoCs => rw [decode_8EH, withModrm_encodeRm ho]; rfl
  case repeatPrefix | oneByte | twoBytes =>
    simp only [List.forall_mem_cons, List.not_mem_nil, IsEmpty.forall_iff, implies_true, and_true]
    and_intros <;> rfl
  case groups =>
    simp only [List.forall_mem_cons, List.not_mem_nil, IsEmpty.forall_iff, implies_true, and_true, decode_twoByteGroup00,
      decode_twoByteGroup01]
    and_intros <;> rfl

/-- Settles O6: the decoder evaluated. -/
theorem encodedWords : Obligations.EncodedWords := by
  unfold Obligations.EncodedWords
  decide

end Sys2Proof
end

section
/-! PROOFS. One fetch and one step (10_state.md R34, 30_encoding.md R111, R112, 60_exceptions.md R290): what the next fetch comes
to, forwards from a state and backwards from the state it answers. -/

namespace Sys2Proof.Machine

/-! ### What the next fetch comes to -/

/-- What the environment does at this boundary; where `inputs` says nothing more, a pending exception 9 is delivered. -/
def State.event (s : State) : Event := s.inputs.head?.getD .exception9

theorem State.fetching_eq_of_boundary {s : State} (h : s.prefixLen = 0) :
    s.fetching = { s.tick with inputs := s.inputs.tail } := by
  rw [State.fetching, State.laterInputs, if_pos h]

theorem State.fetching_eq_of_inside {s : State} (h : s.prefixLen ≠ 0) : s.fetching = s.tick := by
  rw [State.fetching, State.laterInputs, if_neg h]
  rfl

/-- At a boundary the event decides. -/
theorem nextAction_boundary {s : State} (h : s.prefixLen = 0) : nextAction s.tick = atEvent s.fetching s.event := by
  rw [State.fetching_eq_of_boundary h, nextAction, if_pos (by exact h), State.event]
  match s with
  | { inputs := [], .. } => rfl
  | { inputs := _ :: _, .. } => rfl

/-- Inside an instruction's prefixes there is no boundary. -/
theorem nextAction_inside {s : State} (h : s.prefixLen ≠ 0) : nextAction s.tick = fetchInstr s.fetching := by
  rw [State.fetching_eq_of_inside h, nextAction, if_neg (by exact h)]

/-- A state that a step may begin in. -/
def State.unguarded (s : State) : Prop := s.flags.tf = false ∧ (s.prot = true → s.cs.cache.dpl = s.ss.cache.dpl)

theorem guarded_of_unguarded {s : State} (h : s.unguarded) (a : Action) : guarded s a = a := by
  obtain ⟨htf, hlevels⟩ := h
  have hl : ¬(s.prot && decide (s.cs.cache.dpl ≠ s.ss.cache.dpl)) = true := by
    simpa using hlevels
  rw [guarded, htf, if_neg Bool.false_ne_true, if_neg hl]

/-- What the guard lets pass is the action itself, or a refusal. -/
theorem guarded_cases (s : State) (a : Action) : guarded s a = a ∨ ∃ r, guarded s a = .stop (.refused r) := by
  unfold guarded
  split
  · exact .inr ⟨_, rfl⟩
  · split
    · exact .inr ⟨_, rfl⟩
    · exact .inl rfl

/-- What an action comes to. -/
def Action.outcome : Action → Out
  | .stop o => o
  | .run i s => exec i s

theorem fetchAndRun_eq (s : State) : fetchAndRun s = (nextAction s.tick).outcome := by
  unfold fetchAndRun
  cases nextAction s.tick <;> rfl

/-- Where the next step can only run an instruction, the fetch is that of the instruction. -/
theorem fetchAndRun_runsInstruction {s : State} (h : s.runsInstruction = true) :
    fetchAndRun s = (fetchInstr s.fetching).outcome := by
  rw [fetchAndRun_eq]
  by_cases h0 : s.prefixLen = 0
  · simp only [State.runsInstruction, h0, ne_eq, not_true_eq_false, decide_false, Bool.false_or, Bool.and_eq_true,
      Bool.or_eq_true, decide_eq_true_eq, Bool.not_eq_true', Bool.and_eq_false_imp, decide_eq_false_iff_not, not_not] at h
    obtain ⟨⟨hevent, htf⟩, hlevels⟩ := h
    have hu : s.fetching.unguarded := ⟨htf, hlevels⟩
    rw [nextAction_boundary h0]
    rcases hevent with ⟨hi, hx⟩ | hq
    · have hx' : ¬s.fetching.exc9Pending = true := by
        show ¬s.exc9Pending = true
        rw [hx]
        exact Bool.false_ne_true
      rw [show s.event = .exception9 by rw [State.event, hi]; rfl, atEvent, guarded_of_unguarded hu, if_neg hx']
    · rw [show s.event = .quiet by rw [State.event, hq]; rfl, atEvent, guarded_of_unguarded hu]
  · rw [nextAction_inside h0]

/-- The fetch of an instruction that the bytes at the program counter decode to. -/
theorem fetchInstr_instr {s : State} {i : Instr} {rest : List Byte} (hd : decode (fetchWindow s.fetching) = .instr i rest)
    (hl : s.lock = true → s.lockable (fetchWindow s.fetching) = true) :
    fetchInstr s.fetching = .run i (s.atInstruction ((fetchWindow s.fetching).length - rest.length)) := by
  have hlock : ¬(s.fetching.lock && !s.fetching.lockable (fetchWindow s.fetching)) = true := by
    show ¬(s.lock && !s.lockable (fetchWindow s.fetching)) = true
    simpa using hl
  simp only [fetchInstr, hd, if_neg hlock]
  rfl

/-! ### The prefixes -/

theorem exec_prefixInstr (r : SegReg) (s : State) :
    exec (prefixInstr r) s = .next { s with override := some r, prefixLen := s.prefixLen + 1 } := by
  cases r <;> rfl

theorem exec_lock_permitted {s : State} (h : s.ioplViolated = false) :
    exec .lock s = .next { s with lock := true, prefixLen := s.prefixLen + 1 } := by
  have hc : ioplCheck s = .ok () := ioplCheck_ok.mpr h
  show execLock s = _
  rw [execLock, hc]

theorem exec_lock_violated {s : State} (h : s.ioplViolated = true) :
    exec .lock s = takeException s .generalProtection (some 0#16) := by
  show execLock s = _
  rw [execLock, ioplCheck_violated h]
  rfl

/-- The prefixes are those of the segment registers and LOCK. -/
theorem isPrefix_cases {i : Instr} (h : isPrefix i = true) : (∃ r, i = prefixInstr r) ∨ i = .lock := by
  cases i
  case esPrefix => exact .inl ⟨.es, rfl⟩
  case csPrefix => exact .inl ⟨.cs, rfl⟩
  case ssPrefix => exact .inl ⟨.ss, rfl⟩
  case dsPrefix => exact .inl ⟨.ds, rfl⟩
  case lock => exact .inr rfl
  all_goals cases h

/-- Settles O39: each clause is the instruction evaluated; memory is not touched. -/
theorem prefixesRemembered : Obligations.PrefixesRemembered := by
  unfold Obligations.PrefixesRemembered
  refine fun s => ⟨fun r => ⟨_, exec_prefixInstr r s, rfl, .of_mem rfl rfl rfl, fun m n k => ?address⟩,
    fun h => ⟨_, exec_lock_permitted h, rfl, .of_mem rfl rfl rfl⟩⟩
  case address => exact lin_congr _ n k (by cases r <;> rfl) rfl

/-! ### A step that runs an instruction -/

section
variable {s : State} {i : Instr} {here : State} (hf : fetchAndRun s = exec i here)
include hf

/-- An instruction that is no prefix ends the step. -/
theorem step_of_not_isPrefix (hp : isPrefix i = false) : step s = exec i here := by
  rw [← hf]
  refine step_eq fun t ht => ?_
  rw [hf] at ht
  simp [State.goesOn, exec_prefixLen hp ht]

/-- A LOCK that the IOPL rule forbids ends the step. -/
theorem step_of_lock_violated (hi : i = .lock) (hv : here.ioplViolated = true) : step s = exec i here := by
  rw [← hf]
  refine step_eq fun t ht => ?_
  rw [hf, hi, exec_lock_violated hv] at ht
  obtain ⟨u, -, rfl⟩ := takeException_next.mp ht
  rfl

/-- Every other prefix is remembered, and the step goes on. -/
theorem step_of_isPrefix (hp : isPrefix i = true) (hv : i = .lock → here.ioplViolated = false) :
    ∃ t, exec i here = .next t ∧ step s = step t := by
  have hn : ∃ t, exec i here = .next t ∧ t.goesOn = true := by
    rcases isPrefix_cases hp with ⟨r, rfl⟩ | rfl
    · exact ⟨_, exec_prefixInstr r here, by simp [State.goesOn]⟩
    · exact ⟨_, exec_lock_permitted (hv rfl), by simp [State.goesOn]⟩
  obtain ⟨t, ht, hg⟩ := hn
  exact ⟨t, ht, step_goesOn (hf.trans ht) hg⟩

end

/-- The three ends of a step that runs `i`. -/
theorem step_runs {s : State} {i : Instr} {n : Nat} (hf : fetchAndRun s = exec i (s.atInstruction n)) :
    (isPrefix i = false → step s = exec i (s.atInstruction n)) ∧
    (i = .lock → s.ioplViolated = true → step s = exec i (s.atInstruction n)) ∧
    (isPrefix i = true → (i = .lock → s.ioplViolated = false) →
      ∃ t, exec i (s.atInstruction n) = .next t ∧ step s = step t) :=
  ⟨step_of_not_isPrefix hf, step_of_lock_violated hf, step_of_isPrefix hf⟩

/-- Settles O8: the fetch is that of the instruction, and the step is what the instruction makes of it. -/
theorem stepRunsDecodedInstruction : Obligations.StepRunsDecodedInstruction := by
  unfold Obligations.StepRunsDecodedInstruction
  intro s i rest hr hd hl
  refine step_runs ?_
  rw [fetchAndRun_runsInstruction hr, fetchInstr_instr hd hl]
  rfl

/-! ### The bytes of an instruction in memory -/

/-- A list of bytes that can be fetched one by one is what the window begins with. -/
theorem fetchBytes_eq_append {s : State} {off n : Nat} {bs : List Byte} (hn : bs.length ≤ n)
    (h : ∀ (k : Nat) (hk : k < bs.length), fetchByte s (off + k) = .ok bs[k]) :
    fetchBytes s off n = bs ++ fetchBytes s (off + bs.length) (n - bs.length) := by
  induction bs generalizing off n with
  | nil => simp
  | cons b t ih =>
    cases n with
    | zero => simp at hn
    | succ n =>
      have hb : fetchByte s off = .ok b := h 0 (by simp)
      have ht := ih (off := off + 1) (n := n) (by simpa using hn) fun k hk => by
        have := h (k + 1) (by simpa using hk)
        rwa [show off + (k + 1) = off + 1 + k by omega] at this
      simp only [fetchBytes, hb, List.length_cons, Nat.add_sub_add_right, List.cons_append, List.cons.injEq, true_and]
      rw [ht, show off + 1 + t.length = off + (t.length + 1) by omega]

/-- With no older byte in the prefetcher a fetch returns the byte in memory. -/
theorem fetchByte_current {s : State} {off a : Nat} (hs : s.superseded = []) (ha : lin s .cs off 1 .fetch = .ok a) :
    fetchByte s off = .ok (s.byteFor .fetch a) := by
  rw [fetchByte, ha, Try.bind_ok, State.fetchedByte, hs]
  rfl

/-- Settles O9: the window begins with the instruction's bytes, which decode to it. -/
theorem stepRunsBytesInMemory : Obligations.StepRunsBytesInMemory := by
  unfold Obligations.StepRunsBytesInMemory
  intro s i hr hw hs hu hlen hbytes
  have hfetch : ∀ (k : Nat) (hk : k < (encode i).length), fetchByte s.fetching (s.fetchOffset + k) = .ok (encode i)[k] := by
    intro k hk
    obtain ⟨a, ha, hb⟩ := hbytes k hk
    rw [← hb]
    exact fetchByte_current hs ha
  obtain ⟨rest, hwindow⟩ : ∃ rest, fetchWindow s.fetching = encode i ++ rest :=
    ⟨_, fetchBytes_eq_append (Nat.le_sub_of_add_le hlen) hfetch⟩
  have hd : decode (fetchWindow s.fetching) = .instr i rest := by
    rw [hwindow]
    exact decodeOfEncode i rest hw
  have hl : s.lockable (fetchWindow s.fetching) = true := by
    rw [State.lockable, hu]
    rfl
  have hlength : (fetchWindow s.fetching).length - rest.length = (encode i).length := by
    rw [hwindow, List.length_append, Nat.add_sub_cancel]
  refine step_runs ?_
  rw [fetchAndRun_runsInstruction hr, fetchInstr_instr hd fun _ => hl, hlength]
  rfl

/-! ### A fetch beyond the limit -/

/-- A fetch outside the limit of a valid CS entry is exception 13 with error code 0. -/
theorem fetchByte_outsideLimit {s : State} {off : Nat} (hv : s.cs.cache.valid = true)
    (hl : ¬s.cs.cache.inLimit off 1 = true) : fetchByte s off = .error protectionFault := by
  have hlin : lin s .cs off 1 .fetch = .error protectionFault :=
    lin_outsideLimit (r := .cs) hv (by simp [SegCache.deniesWrite]) (by simp [SegCache.deniesRead]) hl
  rw [fetchByte, hlin, Try.bind_error]

/-- Where the first byte cannot be fetched, the fetch ends as that byte does, with IP at it. -/
theorem fetchInstr_firstByte {s : State} {e : Stop} (hn : s.prefixLen < maxInstrBytes)
    (he : fetchByte s s.fetchOffset = .error e) :
    fetchInstr s = .stop (endWith { s with ip := BitVec.ofNat 16 s.fetchOffset, ipPastEnd := false } e) := by
  have hw : fetchWindow s = [] := by
    obtain ⟨n, hn⟩ : ∃ n, maxInstrBytes - s.prefixLen = n + 1 := ⟨maxInstrBytes - s.prefixLen - 1, by omega⟩
    rw [fetchWindow, hn, fetchBytes, he]
  have hshort : ¬0 = maxInstrBytes - s.prefixLen := by omega
  simp only [fetchInstr, hw, decode, List.length_nil, if_neg hshort, Nat.add_zero, fetchFailure, he]

/-- Settles O10: the first byte cannot be fetched, and the exception ends the step. -/
theorem fetchBeyondLimitTraps : Obligations.FetchBeyondLimitTraps := by
  unfold Obligations.FetchBeyondLimitTraps
  intro s hr hn hv hd hl
  have hlimit : ¬s.cs.cache.inLimit s.fetchOffset 1 = true := by
    simpa [SegCache.inLimit, hd] using hl
  have hbyte : fetchByte s.fetching s.fetching.fetchOffset = .error protectionFault := fetchByte_outsideLimit hv hlimit
  have hf : fetchAndRun s =
      takeException { s.fetching with ip := BitVec.ofNat 16 s.fetchOffset, ipPastEnd := false } .generalProtection
        (some 0#16) := by
    rw [fetchAndRun_runsInstruction hr, fetchInstr_firstByte (s := s.fetching) hn hbyte]
    rfl
  rw [← hf]
  refine step_eq fun t ht => ?_
  rw [hf] at ht
  obtain ⟨u, -, rfl⟩ := takeException_next.mp ht
  rfl

/-! ### Boundaries -/

/-- A step whose fetch does not answer a next state is that fetch. -/
theorem step_of_refused {s : State} {r : Refusal} (h : fetchAndRun s = .refused r) : step s = .refused r := by
  rw [← h]
  refine step_eq fun t ht => ?_
  rw [h] at ht
  cases ht

/-- A boundary with no RESET is guarded. -/
theorem fetchAndRun_guarded {s : State} (h0 : s.prefixLen = 0) (hr : s.inputs.head? ≠ some .reset)
    (hn : s.inputs.head? ≠ some .resetNumeric) : ∃ a, fetchAndRun s = (guarded s.fetching a).outcome := by
  rw [fetchAndRun_eq, nextAction_boundary h0, State.event]
  cases hi : s.inputs.head? with
  | none => exact ⟨_, rfl⟩
  | some e =>
    cases e with
    | quiet | interrupt n | exception9 => exact ⟨_, rfl⟩
    | reset => exact absurd hi hr
    | resetNumeric => exact absurd hi hn

/-- Settles O11: the guard refuses, whatever the action. -/
theorem guardedStates : Obligations.GuardedStates := by
  unfold Obligations.GuardedStates
  intro s h0 hr hn
  obtain ⟨a, ha⟩ := fetchAndRun_guarded h0 hr hn
  refine ⟨fun htf => step_of_refused ?tf, fun htf hp hl => step_of_refused ?levels⟩
  case tf =>
    have htf' : s.fetching.flags.tf = true := htf
    rw [ha, guarded, if_pos htf']
    rfl
  case levels =>
    have htf' : ¬s.fetching.flags.tf = true := by
      show ¬s.flags.tf = true
      rw [htf]
      exact Bool.false_ne_true
    have hlevels : (s.fetching.prot && decide (s.fetching.cs.cache.dpl ≠ s.fetching.ss.cache.dpl)) = true := by
      show (s.prot && decide (s.cs.cache.dpl ≠ s.ss.cache.dpl)) = true
      simp [hp, hl]
    rw [ha, guarded, if_neg htf', if_pos hlevels]
    rfl

/-- A step that an event ends in a state at a boundary. -/
theorem step_of_event {s t : State} (h0 : s.prefixLen = 0) (h : (atEvent s.fetching s.event).outcome = .next t)
    (ht : t.prefixLen = 0) : step s = .next t := by
  have hf : fetchAndRun s = .next t := by rw [fetchAndRun_eq, nextAction_boundary h0, h]
  rw [← hf]
  refine step_eq fun u hu => ?_
  rw [hf] at hu
  cases hu
  simp [State.goesOn, ht]

/-- RESET leaves protected mode: its MSW has PE = 0. -/
theorem State.prot_afterReset (s : State) : s.afterReset.prot = false := by
  have hmsw : State.reset.prot = false := by decide
  exact hmsw

/-- Settles O58: the two RESETs are not guarded; each is its reset state. -/
theorem resetEvents : Obligations.ResetEvents := by
  unfold Obligations.ResetEvents
  refine fun s rest h0 => ⟨fun hi => ?reset, fun hi => ?resetNumeric⟩
  case reset =>
    have hevent : s.event = .reset := by rw [State.event, hi]; rfl
    have hin : s.fetching.inputs = rest := by rw [State.fetching_eq_of_boundary h0, hi]; rfl
    refine ⟨s.fetching.afterReset, step_of_event h0 (by rw [hevent]; rfl) rfl, State.prot_afterReset _, rfl, rfl, rfl, rfl, rfl,
      rfl, rfl, rfl, rfl, rfl, rfl, hin, rfl, rfl⟩
  case resetNumeric =>
    have hevent : s.event = .resetNumeric := by rw [State.event, hi]; rfl
    refine ⟨s.fetching.afterNumericReset, step_of_event h0 (by rw [hevent]; rfl) h0, rfl, rfl, rfl, ?tags,
      numericInitialised_top _ _, numericInitialised_masks _ _, rfl⟩
    case tags => simp [State.afterNumericReset, numericInitialised]

end Sys2Proof.Machine
end

section
/-! PROOFS. What every instruction keeps (10_state.md, 43_io_and_lock.md R210, 44_numeric_coprocessor.md): the system
registers, the form of memory and of the cache entries, IOPL and IF at the outer levels, the 80287. -/

namespace Sys2Proof.Machine

/-! ### Computations that trap in the state before the instruction -/

/-- The end carries no state of its own: an exception is taken in the state before the instruction (60_exceptions.md R283). -/
def Stop.inPlace : Stop → Prop
  | .trap _ _ => True
  | .trapIn _ _ _ => False
  | .refuse _ => True

/-- A computation whose exceptions are taken in the state before the instruction. -/
structure Restartable {α : Type} (c : Try α) : Prop where
  inPlace : ∀ e, c = .error e → e.inPlace

theorem Restartable.ok {α : Type} (a : α) : Restartable (.ok a : Try α) := ⟨by rintro _ ⟨⟩⟩

theorem Restartable.error {α : Type} {e : Stop} (h : e.inPlace) : Restartable (.error e : Try α) :=
  ⟨by rintro _ ⟨⟩; exact h⟩

theorem Restartable.bind {α β : Type} {c : Try α} {f : α → Try β} (hc : Restartable c) (hf : ∀ a, Restartable (f a)) :
    Restartable (c >>= f) := by
  cases c with
  | ok a => exact hf a
  | error e => exact .error (hc.inPlace e rfl)

theorem Restartable.require (b : Bool) {e : Stop} (h : e.inPlace) : Restartable (require b e) := by
  cases b
  · exact .error h
  · exact .ok ()

theorem Restartable.requirePhysical (a n : Nat) : Restartable (requirePhysical a n) := .require _ trivial

theorem Restartable.lin (s : State) (r : SegReg) (off n : Nat) (k : Kind) : Restartable (lin s r off n k) := by
  have hlimit : (limitFault s r).inPlace := by
    unfold limitFault
    split
    · split <;> trivial
    · trivial
  unfold Machine.lin
  dsimp only
  split
  · exact .error (by split <;> trivial)
  split
  · exact .error (by split <;> trivial)
  split
  · exact .error trivial
  split
  · exact .error hlimit
  · exact .bind (.requirePhysical _ _) fun _ => .ok _

theorem Restartable.stackWord (s : State) (off : Word) : Restartable (stackWord s off) := .bind (.lin ..) fun _ => .ok _

theorem Restartable.frameWord (s : State) (k : Nat) : Restartable (frameWord s k) := .bind (.lin ..) fun _ => .ok _

theorem Restartable.push (s : State) (v : Word) : Restartable (push s v) := .bind (.lin ..) fun _ => .ok _

theorem Restartable.physicalWord (s : State) (p : Purpose) (a : Nat) : Restartable (physicalWord s p a) :=
  .bind (.requirePhysical _ _) fun _ => .ok _

theorem Restartable.readDescriptor (s : State) (p : Purpose) (sel : Word) {e : Stop} (h : e.inPlace) :
    Restartable (readDescriptor s p sel e) := by
  unfold Machine.readDescriptor
  split
  · exact .bind (.require _ h) fun _ => .bind (.requirePhysical _ _) fun _ => .ok _
  · exact .bind (.require _ h) fun _ => .bind (.requirePhysical _ _) fun _ => .ok _

theorem Restartable.readGate (s : State) (p : Purpose) (n : Nat) {e : Stop} (h : e.inPlace) : Restartable (readGate s p n e) :=
  .bind (.require _ h) fun _ => .bind (.requirePhysical _ _) fun _ => .bind (.require _ h) fun _ => .ok _

/-- An entry never raises a second exception. -/
theorem Restartable.entering (c : Try State) : Restartable (entering c) := by
  rcases c with (_ | _ | _) | u
  · exact .error trivial
  · exact .error trivial
  · exact .error trivial
  · exact .ok u

theorem Restartable.softwareInterrupt (s : State) (n : Nat) : Restartable (softwareInterrupt s n) := by
  unfold Machine.softwareInterrupt
  split
  · exact .bind (.readGate _ _ _ trivial) fun _ => .bind (.require _ trivial) fun _ => .entering _
  · exact .entering _

theorem Restartable.externalInterrupt (s : State) (n : Nat) : Restartable (externalInterrupt s n) := by
  unfold Machine.externalInterrupt
  split
  · exact .bind (.readGate _ _ _ trivial) fun _ => .entering _
  · exact .entering _

theorem Restartable.loadStackSegment (s : State) (p : Purpose) (v : Word) (level : BitVec 2) :
    Restartable (loadStackSegment s p v level) := by
  have checks : ∀ d, Restartable (stackSegmentChecks d v level) := fun d =>
    .bind (.require _ trivial) fun _ => .require _ trivial
  exact .bind (.require _ trivial) fun _ => .bind (.readDescriptor _ _ _ trivial) fun d => .bind (checks d) fun _ => .ok _

theorem Restartable.loadDataSegment (s : State) (r : SegReg) (v : Word) : Restartable (loadDataSegment s r v) := by
  have checks : ∀ d, Restartable (dataSegmentChecks d v s.cpl) := fun d =>
    .bind (.require _ trivial) fun _ => .bind (.require _ trivial) fun _ => .bind (.require _ trivial) fun _ => .require _ trivial
  unfold Machine.loadDataSegment
  split
  · exact .ok _
  · exact .bind (.readDescriptor _ _ _ trivial) fun d => .bind (checks d) fun _ => .ok _

theorem Restartable.loadSeg (s : State) (r : SegReg) (v : Word) : Restartable (loadSeg s r v) := by
  unfold Machine.loadSeg
  split
  · split
    · exact .loadStackSegment ..
    · exact .loadDataSegment ..
  · exact .ok _

theorem Restartable.returnFromHandler (s : State) : Restartable (returnFromHandler s) := by
  have real : Restartable (returnReal s) :=
    .bind (.stackWord ..) fun _ => .bind (.stackWord ..) fun _ => .bind (.stackWord ..) fun _ => .ok _
  have nested : Restartable (returnNested s) :=
    .bind (.physicalWord ..) fun _ => .bind (.require _ trivial) fun _ => .error trivial
  have code : ∀ d cs, Restartable (returnCodeChecks d cs) := fun d cs =>
    .bind (.require _ trivial) fun _ => .bind (.require _ trivial) fun _ => .require _ trivial
  have stack : ∀ level, Restartable (returnStack s level) := by
    intro level
    unfold returnStack
    split
    · exact .ok _
    · exact .bind (.frameWord ..) fun _ => .bind (.frameWord ..) fun _ => .bind (.loadStackSegment ..) fun _ => .ok _
  have protect : Restartable (returnProtected s) :=
    .bind (.frameWord ..) fun _ => .bind (.frameWord ..) fun cs => .bind (.frameWord ..) fun _ =>
      .bind (.require _ trivial) fun _ => .bind (.readDescriptor _ _ _ trivial) fun d => .bind (code d cs) fun _ =>
        .bind (stack _) fun _ => .bind (.require _ trivial) fun _ => .ok _
  unfold Machine.returnFromHandler
  split
  · exact real
  · split
    · exact nested
    · exact protect

theorem Restartable.ioplCheck (s : State) : Restartable (ioplCheck s) := .require _ trivial

theorem Restartable.portCheck (s : State) (port : Word) (n : Nat) : Restartable (portCheck s port n) :=
  .bind (.ioplCheck s) fun _ => .require _ trivial

theorem Restartable.escapeAvailable (s : State) : Restartable (escapeAvailable s) := .require _ trivial

theorem Restartable.numericReady (s : State) : Restartable (numericReady s) :=
  .bind (.require _ trivial) fun _ => .require _ trivial

theorem Restartable.readRm {ρ : Type} {w : Nat} (z : OpSize ρ w) (s : State) (o : Rm ρ) : Restartable (z.readRm s o) := by
  cases o with
  | reg r => exact .ok _
  | mem m => exact .bind (.lin ..) fun _ => .ok _

theorem Restartable.writeRm {ρ : Type} {w : Nat} (z : OpSize ρ w) (s : State) (o : Rm ρ) (v : BitVec w) :
    Restartable (z.writeRm s o v) := by
  cases o with
  | reg r => exact .ok _
  | mem m => exact .bind (.lin ..) fun _ => .ok _

/-- A write check that is not restartable ends in the state given with it, if it raises an exception. -/
theorem notRestartable_trapIn {α : Type} {c : Try α} (hc : Restartable c) {s u : State} {x : Exc} {ec : Option Word}
    (h : notRestartable s c = .error (.trapIn u x ec)) : u = s := by
  rcases c with (_ | _ | _) | _
  · cases h
    rfl
  · exact (hc.inPlace _ rfl).elim
  · cases h
  · cases h

/-! ### The 80287 -/

/-- What an 80287 meets in every state: `State.Inv` on its part of the state. -/
structure Numeric.Inv (n : Numeric) : Prop where
  addresses : n.mode = .real → n.fip.isPhysical = true ∧ n.fdp.isPhysical = true
  masked : n.errorPending = true → n.masks ≠ 0x3F#6
  stuck : n.busy = .stuck → n.errorPending = false

theorem numericAddress_isPhysical {m : Mode} (h : m = .real) (sel off : Word) : (numericAddress m sel off).isPhysical = true := by
  rw [h]
  rfl

theorem numericAfter_inv {s : State} (overrun : Bool) {fdp : NumericAddress}
    (h : s.numeric.mode = .real → fdp.isPhysical = true) : (numericAfter s overrun fdp).Inv where
  addresses hm := ⟨numericAddress_isPhysical hm _ _, h hm⟩
  masked he := by
    simp only [numericAfter, Bool.and_eq_true, decide_eq_true_eq] at he
    exact he.2
  stuck hb := by
    cases overrun
    · cases hb
    · rfl

theorem numericInitialised_inv (s : State) (m : Mode) : (numericInitialised s m).Inv where
  addresses hm := by
    have hm' : m = .real := hm
    subst hm'
    exact ⟨rfl, rfl⟩
  masked he := by cases he
  stuck hb := by cases hb

/-! ### What an instruction keeps -/

/-- What every instruction but LOADALL and FSETPM keeps from `s` to `t`: at a level other than 0 IOPL, at a level above IOPL
interrupts stay disabled, and of the 80287 its mode and `Numeric.Inv`. -/
structure Regular (s t : State) : Prop extends KeptCore s t where
  iopl : s.cpl ≠ 0#2 → t.flags.iopl = s.flags.iopl
  ie : s.flags.iopl < s.cpl → t.flags.ie = true → s.flags.ie = true
  mode : t.numeric.mode = s.numeric.mode
  numeric : s.numeric.Inv → t.numeric.Inv

theorem Regular.of_entry {s t : State} (h : Kept s t) (f : EntryFlags s t) : Regular s t :=
  { h.toKeptCore with
    iopl := fun _ => f.iopl
    ie := fun _ => f.ie
    mode := by rw [h.numeric]
    numeric := by rw [h.numeric]; exact id }

theorem Regular.of_kept {s t : State} (h : Kept s t) (f : t.flags = s.flags) : Regular s t := .of_entry h (.of_eq f)

/-- An update of the flags that leaves IF and IOPL. -/
theorem Regular.of_flags {s t : State} (h : Kept s t) (hi : t.flags.iopl = s.flags.iopl) (he : t.flags.ie = s.flags.ie) :
    Regular s t := .of_entry h ⟨hi, by rw [he]; exact id⟩

/-- What an instruction keeps, an entry after it keeps. -/
theorem Regular.trans_entry {s t u : State} (h : Regular s t) (k : Kept t u) (f : EntryFlags t u) : Regular s u :=
  { h.toKeptCore.trans k.toKeptCore with
    iopl := fun hc => f.iopl.trans (h.iopl hc)
    ie := fun hc hu => h.ie hc (f.ie hu)
    mode := by rw [k.numeric, h.mode]
    numeric := by rw [k.numeric]; exact h.numeric }

theorem Regular.trans_same {s t u : State} (h : Regular s t) (k : Kept t u) (f : u.flags = t.flags) : Regular s u :=
  h.trans_entry k (.of_eq f)

theorem Regular.takeException {s t u : State} {x : Exc} {ec : Option Word} (h : Regular s u)
    (ht : takeException u x ec = .next t) : Regular s t := h.trans_entry (.takeException ht) (.takeException ht)

theorem Regular.complete {s t : State} {c : Try State} (hok : ∀ u, c = .ok u → Regular s u)
    (htrap : ∀ u x ec, c = .error (.trapIn u x ec) → Regular s u) (h : complete s c = .next t) : Regular s t := by
  rcases complete_next h with ⟨u, hu, rfl⟩ | ⟨x, ec, -, h⟩ | ⟨u, x, ec, hu, h⟩
  · exact (hok u hu).trans_same (.finish u) rfl
  · exact .takeException (.of_kept (.refl s) rfl) h
  · exact .takeException (htrap u x ec hu) h

theorem Regular.complete_restartable {s t : State} {c : Try State} (h : Machine.complete s c = .next t) (hc : Restartable c)
    (hok : ∀ u, c = .ok u → Regular s u) : Regular s t := .complete hok (fun _ _ _ hu => (hc.inPlace _ hu).elim) h

/-! ### Operands of either size -/

/-- A store of this size keeps what a byte store keeps. -/
structure OpSize.Stores {ρ : Type} {w : Nat} (z : OpSize ρ w) : Prop where
  kept : ∀ (s : State) {a : Nat} (v : BitVec w), a + z.bytes ≤ physicalSize → Kept s (z.store s a v)
  flags : ∀ (s : State) (a : Nat) (v : BitVec w), (z.store s a v).flags = s.flags

theorem size8_stores : size8.Stores where
  kept s _ v h := Kept.setByte s v h
  flags _ _ _ := State.setByte_flags ..

theorem size16_stores : size16.Stores where
  kept s _ v h := Kept.setWord s v h
  flags _ _ _ := State.setWord_flags ..

theorem operandAddress_inside {s : State} {m : MemOperand} {n a : Nat} {k : Kind} (h : operandAddress s m n k = .ok a) :
    a + n ≤ physicalSize := (lin_address h).2

/-- The write check of a read-modify-write operand ends in the state given with it, if the access carries one. -/
theorem operandAddress_trapIn {s s' u : State} {m : MemOperand} {n : Nat} {k : Kind} {x : Exc} {ec : Option Word}
    (h : notRestartable s' (operandAddress s m n k) = .error (.trapIn u x ec)) : u = s' :=
  notRestartable_trapIn (Restartable.lin ..) h

/-- The one end with a state of its own that a computation in sequence can have. -/
theorem Try.bind_trapIn {α β : Type} {c : Try α} {f : α → Try β} {u : State} {x : Exc} {ec : Option Word}
    (h : (c >>= f) = .error (.trapIn u x ec)) :
    c = .error (.trapIn u x ec) ∨ ∃ a, c = .ok a ∧ f a = .error (.trapIn u x ec) := by
  cases c with
  | ok a => exact .inr ⟨a, rfl, h⟩
  | error e =>
    cases h
    exact .inl rfl

section
variable {ρ : Type} {w : Nat} {z : OpSize ρ w} {s t : State}

/-- Of a read-modify-write of memory, only the write check can end with a state of its own, the one given with it. -/
theorem readModifyWrite_trapIn {m : MemOperand} {s' u : State} {f : Nat → Nat → State} {x : Exc} {ec : Option Word}
    (h : (do
      let ar ← operandAddress s m z.bytes .read
      let aw ← notRestartable s' (operandAddress s m z.bytes .write)
      pure (f ar aw)) = (.error (.trapIn u x ec) : Try State)) : u = s' := by
  rcases Try.bind_trapIn h with h | ⟨ar, -, h⟩
  · exact ((Restartable.lin ..).inPlace _ h).elim
  · rcases Try.bind_trapIn h with h | ⟨aw, -, h⟩
    · exact operandAddress_trapIn h
    · cases h

theorem Restartable.zeroCountCheck (c : Try Nat) : Restartable (zeroCountCheck c) := by
  rcases c with (_ | _ | _) | _
  · exact .error trivial
  · exact .error trivial
  · exact .error trivial
  · exact .ok ()

/-- A shift of a memory operand by a masked count of 0 checks the read and the write, and moves on. -/
theorem shiftRm_mem_zero {op : ShiftOp} {m : MemOperand} {count : Byte} (h : shiftCount count = 0) :
    shiftRm z op s (.mem m) count = (do
      let _ ← operandAddress s m z.bytes .read
      zeroCountCheck (operandAddress s m z.bytes .write)
      pure s.advance) := by
  simp only [shiftRm, h, if_true]

/-- A shift of a memory operand by any other count. -/
theorem shiftRm_mem_steps {op : ShiftOp} {m : MemOperand} {count : Byte} (h : shiftCount count ≠ 0) :
    shiftRm z op s (.mem m) count = (do
      let ar ← operandAddress s m z.bytes .read
      let aw ← notRestartable (shiftTrapState op s) (operandAddress s m z.bytes .write)
      pure ({ z.store s aw (shiftResult op s.flags (shiftCount count) (z.load s ar)) with
        flags := shiftFlags op s.flags s.freeIndex (shiftCount count) (z.load s ar) }.advance)) := by
  simp only [shiftRm, h, if_false]

theorem CarryOp.flags_iopl (op : CarryOp) (f : Flags) (a b : BitVec w) : (op.flags f a b).iopl = f.iopl := by cases op <;> rfl

theorem CarryOp.flags_ie (op : CarryOp) (f : Flags) (a b : BitVec w) : (op.flags f a b).ie = f.ie := by cases op <;> rfl

theorem shiftFlags_iopl (op : ShiftOp) (f : Flags) (index n : Nat) (v : BitVec w) :
    (shiftFlags op f index n v).iopl = f.iopl := by
  cases op <;> rfl

theorem shiftFlags_ie (op : ShiftOp) (f : Flags) (index n : Nat) (v : BitVec w) : (shiftFlags op f index n v).ie = f.ie := by
  cases op <;> rfl

theorem Regular.setReg (s : State) (r : ρ) (v : BitVec w) : Regular s (z.setReg s r v) := .of_kept (.setReg z s r v) rfl

theorem Regular.advance (s : State) : Regular s s.advance := .of_kept (.advance s) rfl

variable (hz : z.Stores)
include hz

theorem Regular.carryRm {op : CarryOp} {dst : Rm ρ} {b : BitVec w} (h : Machine.complete s (carryRm z op s dst b) = .next t) :
    Regular s t := by
  refine .complete (fun u hu => ?_) (fun u x ec hu => ?_) h
  · cases dst with
    | reg r =>
      rw [carryRm_reg] at hu
      cases hu
      exact .of_flags (((Kept.setReg z s r _).trans (.setFlags _ _)).trans (.advance _)) (op.flags_iopl ..) (op.flags_ie ..)
    | mem m =>
      obtain ⟨ar, aw, -, hw, rfl⟩ := carryRm_mem_ok.mp hu
      exact .of_flags (((hz.kept s _ (operandAddress_inside hw)).trans (.setFlags _ _)).trans (.advance _))
        (op.flags_iopl ..) (op.flags_ie ..)
  · cases dst with
    | reg r => cases hu
    | mem m =>
      rw [readModifyWrite_trapIn hu]
      exact .of_flags (.setFlags _ _) rfl rfl

theorem Regular.exchange {dst : Rm ρ} {src : ρ} (h : Machine.complete s (exchange z s dst src) = .next t) : Regular s t := by
  refine .complete (fun u hu => ?_) (fun u x ec hu => ?_) h
  · cases dst with
    | reg r =>
      cases hu
      exact .of_kept (((Kept.setReg z s r _).trans (.setReg z _ src _)).trans (.advance _)) rfl
    | mem m =>
      obtain ⟨ar, aw, -, hw, rfl⟩ := exchange_mem_ok.mp hu
      exact .of_kept (((hz.kept s _ (operandAddress_inside hw)).trans (.setReg z _ src _)).trans (.advance _)) (hz.flags ..)
  · cases dst with
    | reg r => cases hu
    | mem m =>
      rw [readModifyWrite_trapIn hu]
      exact .setReg s src _

theorem Regular.shiftRm {op : ShiftOp} {dst : Rm ρ} {count : Byte}
    (h : Machine.complete s (shiftRm z op s dst count) = .next t) : Regular s t := by
  refine .complete (fun u hu => ?_) (fun u x ec hu => ?_) h
  · cases dst with
    | reg r =>
      rw [shiftRm_reg] at hu
      cases hu
      split
      · exact .advance s
      · exact .of_flags (((Kept.setReg z s r _).trans (.setFlags _ _)).trans (.advance _)) (shiftFlags_iopl ..)
          (shiftFlags_ie ..)
    | mem m =>
      obtain ⟨ar, aw, -, hw, rfl⟩ := shiftRm_mem_ok.mp hu
      split
      · exact .advance s
      · exact .of_flags (((hz.kept s _ (operandAddress_inside hw)).trans (.setFlags _ _)).trans (.advance _))
          (shiftFlags_iopl ..) (shiftFlags_ie ..)
  · cases dst with
    | reg r =>
      rw [shiftRm_reg] at hu
      cases hu
    | mem m =>
      by_cases h0 : shiftCount count = 0
      · rw [shiftRm_mem_zero h0] at hu
        have hc : Restartable (do
            let _ ← operandAddress s m z.bytes .read
            zeroCountCheck (operandAddress s m z.bytes .write)
            pure s.advance) := .bind (.lin ..) fun _ => .bind (.zeroCountCheck _) fun _ => .ok _
        exact (hc.inPlace _ hu).elim
      · rw [shiftRm_mem_steps h0] at hu
        rw [readModifyWrite_trapIn hu, shiftTrapState]
        split
        · exact .of_flags (.setFlags _ _) rfl rfl
        · exact .of_kept (.refl s) rfl

theorem Regular.writeRm {o : Rm ρ} {v : BitVec w}
    (h : Machine.complete s (z.writeRm s o v >>= fun u => pure u.advance) = .next t) : Regular s t := by
  refine .complete_restartable h (.bind (.writeRm ..) fun _ => .ok _) fun u hu => ?_
  obtain ⟨v, hv, hu⟩ := Try.bind_eq_ok.mp hu
  cases hu
  cases o with
  | reg r =>
    cases hv
    exact (Regular.setReg s r _).trans_same (.advance _) rfl
  | mem m =>
    obtain ⟨a, ha, rfl⟩ := writeRm_mem.mp hv
    exact .of_kept ((hz.kept s _ (operandAddress_inside ha)).trans (.advance _)) (hz.flags ..)

theorem Regular.carryReg {op : CarryOp} {dst : ρ} {src : Rm ρ} (h : Machine.complete s (carryReg z op s dst src) = .next t) :
    Regular s t := by
  rw [Machine.carryReg] at h
  cases hb : z.readRm s src with
  | ok b =>
    rw [hb, Try.bind_ok] at h
    exact .carryRm hz h
  | error e =>
    rw [hb] at h
    exact .complete_restartable h (.error ((Restartable.readRm ..).inPlace _ hb)) fun u hu => by cases hu

omit hz

theorem Regular.loadRegister {dst : ρ} {src : Rm ρ} (h : Machine.complete s (loadRegister z s dst src) = .next t) :
    Regular s t := by
  refine .complete_restartable h (.bind (.readRm ..) fun _ => .ok _) fun u hu => ?_
  obtain ⟨v, -, rfl⟩ := loadRegister_ok.mp hu
  exact (Regular.setReg s dst v).trans_same (.advance _) rfl

/-- A divide: its operand is read, and `divideEnd` does the rest. -/
theorem Regular.divide {src : Rm ρ} {f : BitVec w → Try State} (hf : ∀ d, ∃ b r, f d = divideEnd s b r)
    (h : Machine.complete s (z.readRm s src >>= f) = .next t) : Regular s t := by
  have hd : ∀ d, Restartable (f d) := fun d => by
    obtain ⟨b, r, e⟩ := hf d
    rw [e]
    exact .bind (.require _ trivial) fun _ => .ok _
  refine .complete_restartable h (.bind (.readRm ..) hd) fun u hu => ?_
  obtain ⟨d, -, hu⟩ := Try.bind_eq_ok.mp hu
  obtain ⟨b, r, e⟩ := hf d
  obtain ⟨-, rfl⟩ := divideEnd_ok.mp (e ▸ hu)
  exact .of_flags (.of_same rfl) rfl rfl

end

/-! ### Segment registers, the stack, control transfers -/

section
variable {s t : State}

theorem loadFrom_flags (s : State) (r : SegReg) (v : Word) (d : Descriptor) (level : BitVec 2) :
    (s.loadFrom r v d level).flags = s.flags := by simp

theorem loadSeg_flags {r : SegReg} {v : Word} (h : loadSeg s r v = .ok t) : t.flags = s.flags := by
  rcases loadSeg_ok h with ⟨-, rfl⟩ | ⟨-, -, -, rfl⟩ | ⟨-, -, d, -, -, rfl⟩
  · simp [loadSegReal]
  · simp
  · exact loadFrom_flags ..

theorem Regular.loadSeg {r : SegReg} {v : Word} (h : Machine.loadSeg s r v = .ok t) : Regular s t :=
  .of_kept (.loadSeg h) (loadSeg_flags h)

theorem Regular.popSegment {r : SegReg} (h : Machine.complete s (popSegment s r) = .next t) : Regular s t := by
  refine .complete_restartable h (.bind (.stackWord ..) fun _ => .bind (.loadSeg ..) fun _ => .ok _)
    fun u hu => ?_
  obtain ⟨v, u, -, hl, rfl⟩ := popSegment_ok.mp hu
  exact (Regular.loadSeg hl).trans_same (((Kept.setSp u _).trans (.holdOff _ r)).trans (.advance _)) rfl

theorem Regular.loadFarPointer {r : SegReg} {dst : Reg16} {src : MemOperand}
    (h : Machine.complete s (loadFarPointer s r dst src) = .next t) : Regular s t := by
  refine .complete_restartable h (.bind (.lin ..) fun _ => .bind (.lin ..) fun _ => .bind (.loadSeg ..) fun _ => .ok _)
    fun u hu => ?_
  obtain ⟨a, b, u, -, -, hl, rfl⟩ := loadFarPointer_ok.mp hu
  exact (Regular.loadSeg hl).trans_same ((Kept.setReg size16 u dst _).trans (.advance _)) rfl

theorem Regular.movSreg {dst : SegReg} {src : Rm Reg16} (h : exec (.movSregRm16 dst src) s = .next t) : Regular s t := by
  have h : Machine.complete s (do
      require (!decide (dst = .cs)) (.refuse (.undecodable .movIntoCs))
      let v ← size16.readRm s src
      let s1 ← Machine.loadSeg s dst v
      pure (s1.holdOff dst).advance) = .next t := h
  refine .complete_restartable h (.bind (.require _ trivial) fun _ => .bind (.readRm ..) fun _ =>
    .bind (.loadSeg ..) fun _ => .ok _)
    fun u hu => ?_
  simp only [Try.bind_eq_ok, Try.pure_eq_ok] at hu
  obtain ⟨-, -, v, -, u, hl, rfl⟩ := hu
  exact (Regular.loadSeg hl).trans_same ((Kept.holdOff u dst).trans (.advance _)) rfl

/-- PUSHF and PUSH SP. -/
theorem Regular.pushed {v : Word} (h : Machine.complete s (push s v >>= fun u => pure u.advance) = .next t) : Regular s t := by
  refine .complete_restartable h (.bind (.push ..) fun _ => .ok _) fun u hu => ?_
  obtain ⟨u, hp, hu⟩ := Try.bind_eq_ok.mp hu
  cases hu
  exact .of_kept ((Kept.push hp).trans (.advance _)) ((State.advance_flags _).trans (push_flags hp))

/-- In real mode the level is 0. -/
theorem State.cpl_of_real (h : s.prot = false) : s.cpl = 0#2 := by simp [State.cpl, h]

theorem State.prot_of_cpl (h : s.cpl ≠ 0#2) : s.prot = true := by
  cases hp : s.prot with
  | true => rfl
  | false => exact absurd (State.cpl_of_real hp) h

/-- What a load of the flag word with the level of `s` keeps (42_interrupt_and_flag_instructions.md R189). -/
theorem Flags.load_protected (f : Flags) {prot : Bool} {cpl : BitVec 2} (hp : cpl ≠ 0#2 → prot = true) (high : Bool)
    (v : Word) :
    (cpl ≠ 0#2 → (f.load prot cpl high v).iopl = f.iopl) ∧
    (f.iopl < cpl → (f.load prot cpl high v).ie = true → f.ie = true) := by
  constructor
  · intro hc
    simp [Flags.load, hp hc, hc]
  · intro hc
    have h0 : cpl ≠ 0#2 := by bv_omega
    have hle : ¬cpl ≤ f.iopl := BitVec.not_le.mpr hc
    simp [Flags.load, hp h0, hle]

/-- A load of the flag word, after what leaves the flags. -/
theorem Regular.loadFlags {u : State} {level : BitVec 2} {v : Word} (k : Kept s u) (hf : u.flags = s.flags)
    (hl : s.cpl ≠ 0#2 → level = s.cpl) : Regular s (u.loadFlags level v) := by
  have hkept : Kept s (u.loadFlags level v) := k.trans (.loadFlags u level v)
  have hprot : u.prot = s.prot := by rw [State.prot, k.msw, State.prot]
  have hflags : (u.loadFlags level v).flags = s.flags.load s.prot level u.platform.realModeHighFlags v := by
    rw [State.loadFlags, hf, hprot]
  by_cases h0 : s.cpl = 0#2
  · have habove : ¬s.flags.iopl < s.cpl := by
      rw [h0]
      bv_omega
    exact { hkept.toKeptCore with
      iopl := fun hc => absurd h0 hc
      ie := fun hc => absurd hc habove
      mode := by rw [hkept.numeric]
      numeric := by rw [hkept.numeric]; exact id }
  · obtain rfl := hl h0
    obtain ⟨hiopl, hie⟩ := Flags.load_protected s.flags State.prot_of_cpl u.platform.realModeHighFlags v
    exact { hkept.toKeptCore with
      iopl := fun hc => by rw [hflags]; exact hiopl hc
      ie := fun hc => by rw [hflags]; exact hie hc
      mode := by rw [hkept.numeric]
      numeric := by rw [hkept.numeric]; exact id }

theorem Regular.popf (h : exec .popf s = .next t) : Regular s t := by
  have h : Machine.complete s (do
      let v ← stackWord s s.regs.sp
      pure ((s.setSp (s.regs.sp + 2#16)).loadFlags s.cpl v).advance) = .next t := h
  refine .complete_restartable h (.bind (.stackWord ..) fun _ => .ok _) fun u hu => ?_
  obtain ⟨v, -, hu⟩ := Try.bind_eq_ok.mp hu
  cases hu
  exact (Regular.loadFlags (.setSp s (s.regs.sp + 2#16)) rfl fun _ => rfl).trans_same (.advance _) rfl

theorem Kept.returnStack {level : BitVec 2} (h : Machine.returnStack s level = .ok t) : Kept s t ∧ t.flags = s.flags := by
  rcases returnStack_ok.mp h with ⟨-, rfl⟩ | ⟨-, sp, ss, u, -, -, hu, rfl⟩
  · exact ⟨.setSp _ _, rfl⟩
  · obtain ⟨-, d, hd, -, -, -, -, rfl⟩ := loadStackSegment_ok.mp hu
    have drop : ∀ g : Segment, g.cache.consistent = true → (dropInner g level).cache.consistent = true := by
      intro g hg
      unfold dropInner
      split
      · exact hg
      · exact hg
    have kload := Kept.loadFrom s .ss ss d.dpl (readDescriptor_rightsAt hd)
    exact ⟨(kload.trans (.setSp _ sp)).trans ((Kept.setSeg _ .ds (drop _)).trans (.setSeg _ .es (drop _))), loadFrom_flags ..⟩

theorem Regular.iret (h : Machine.complete s (returnFromHandler s) = .next t) : Regular s t := by
  refine .complete_restartable h (.returnFromHandler s) fun u hu => ?_
  rcases returnFromHandler_ok.mp hu with ⟨hp, hu⟩ | ⟨-, -, hu⟩
  · obtain ⟨ip, cs, v, -, -, -, rfl⟩ := returnReal_ok.mp hu
    have hload : Regular s ((loadSegReal (s.setSp (s.regs.sp + 6#16)) .cs cs).loadFlags 0#2 v) :=
      .loadFlags ((Kept.setSp s _).trans (.loadSegReal _ .cs cs)) rfl fun hc => absurd (State.cpl_of_real hp) hc
    exact hload.trans_same (.jump _ ip) rfl
  · obtain ⟨ip, cs, v, d, u, -, -, -, -, -, hd, -, -, -, hs, -, rfl⟩ := returnProtected_ok.mp hu
    obtain ⟨hk, hf⟩ := Kept.returnStack hs
    have hload : Regular s ((u.loadFrom .cs cs d (rpl cs)).loadFlags s.cpl v) :=
      .loadFlags (hk.trans (.loadFrom u .cs cs _ (readDescriptor_rightsAt hd))) ((loadFrom_flags ..).trans hf) fun _ => rfl
    exact hload.trans_same (.jump _ ip) rfl

theorem EntryFlags.softwareInterrupt {n : Nat} (h : Machine.softwareInterrupt s n = .ok t) : EntryFlags s t := by
  rcases softwareInterrupt_ok.mp h with ⟨-, g, -, -, h⟩ | ⟨-, h⟩
  · exact .enterGate h
  · exact .enterReal h

theorem EntryFlags.externalInterrupt {n : Nat} (h : Machine.externalInterrupt s n = .ok t) : EntryFlags s t := by
  rcases externalInterrupt_ok.mp h with ⟨-, g, -, h⟩ | ⟨-, h⟩
  · exact .enterGate h
  · exact .enterReal h

theorem Regular.softwareInterrupt {n : Nat} (h : Machine.complete s (softwareInterrupt s n) = .next t) : Regular s t :=
  .complete_restartable h (.softwareInterrupt s n) fun _ hu => .of_entry (.softwareInterrupt hu) (.softwareInterrupt hu)

theorem Regular.externalInterrupt {n : Nat} (h : Machine.complete s (externalInterrupt s n) = .next t) : Regular s t :=
  .complete_restartable h (.externalInterrupt s n) fun _ hu => .of_entry (.externalInterrupt hu) (.externalInterrupt hu)

/-- STI and CLI: where the IOPL rule is met, IF may change. -/
theorem Regular.setIe {b : Bool} (h : Machine.complete s (ioplCheck s >>= fun _ => pure (s.setIe b).advance) = .next t) :
    Regular s t := by
  refine .complete_restartable h (.bind (.ioplCheck s) fun _ => .ok _) fun u hu => ?_
  obtain ⟨_, hc, hu⟩ := Try.bind_eq_ok.mp hu
  cases hu
  have hnot : ¬s.flags.iopl < s.cpl := by
    intro hlt
    have hprot : s.prot = true := State.prot_of_cpl (by bv_omega)
    have hv : s.ioplViolated = false := ioplCheck_ok.mp hc
    simp [State.ioplViolated, hprot, hlt] at hv
  exact { ((Kept.setIe s b).trans (.advance _)).toKeptCore with
    iopl := fun _ => rfl
    ie := fun hlt => absurd hlt hnot
    mode := rfl
    numeric := id }

theorem Regular.jumpNear {rel : Word} (h : Machine.complete s (jumpNear s rel) = .next t) : Regular s t := by
  refine .complete_restartable h (.bind (.require _ trivial) fun _ => .ok _) fun u hu => ?_
  obtain ⟨-, rfl⟩ := jumpNear_ok.mp hu
  exact .of_kept (.jump s _) rfl

theorem Regular.jmpFar {off seg : Word} (h : exec (.jmpFar off seg) s = .next t) : Regular s t := by
  have h : Machine.complete s (do
      require (!s.prot) (.refuse .protectedFarTransfer)
      require (decide (off ≤ s.cs.cache.limit)) protectionFault
      pure ((Machine.loadSegReal s .cs seg).jump off)) = .next t := h
  refine .complete_restartable h (.bind (.require _ trivial) fun _ => .bind (.require _ trivial) fun _ => .ok _) fun u hu => ?_
  simp only [Try.bind_eq_ok, Try.pure_eq_ok] at hu
  obtain ⟨-, -, -, -, rfl⟩ := hu
  exact .of_kept ((Kept.loadSegReal s .cs seg).trans (.jump _ off)) rfl

/-! ### Ports and the 80287 -/

theorem KeptCore.logPort (s : State) (p : PortAccess) : KeptCore s (s.logPort p) :=
  ⟨rfl, rfl, rfl, rfl, rfl, rfl, rfl, rfl, id, id, fun w r => by
    have := w r
    cases r <;> exact this⟩

theorem Regular.logPort (s : State) (p : PortAccess) : Regular s (s.logPort p) :=
  { KeptCore.logPort s p with iopl := fun _ => rfl, ie := fun _ => id, mode := rfl, numeric := id }

theorem Regular.trans_logPort {u : State} (h : Regular s u) (p : PortAccess) : Regular s (u.logPort p) :=
  { h.toKeptCore.trans (.logPort u p) with iopl := h.iopl, ie := h.ie, mode := h.mode, numeric := h.numeric }

theorem Regular.portInstr {op : PortOp} {form : PortForm} (h : exec (portInstr op form) s = .next t) : Regular s t := by
  rw [exec_portInstr] at h
  refine .complete_restartable h (.bind (.portCheck ..) fun _ => .ok _) fun u hu => ?_
  obtain ⟨_, -, hu⟩ := Try.bind_eq_ok.mp hu
  cases hu
  have heffect : Regular s (op.effect s (form.port s)) := by
    cases op with
    | inByte => exact (Regular.setReg (z := size8) s .al _).trans_logPort _
    | inWord => exact (Regular.setReg (z := size16) s .ax _).trans_logPort _
    | outByte | outWord => exact .logPort s _
  exact heffect.trans_same (.advance _) rfl

theorem KeptCore.setNumeric (s : State) (n : Numeric) (b : Bool) : KeptCore s { s with numeric := n, exc9Pending := b } :=
  ⟨rfl, rfl, rfl, rfl, rfl, rfl, rfl, rfl, id, id, fun w r => by
    have := w r
    cases r <;> exact this⟩

/-- A change of the 80287 that keeps its mode and its invariant, after what leaves the flags. -/
theorem Regular.setNumeric {u : State} (k : Kept s u) (hf : u.flags = s.flags) {n : Numeric} (b : Bool)
    (hm : n.mode = s.numeric.mode) (hn : s.numeric.Inv → n.Inv) : Regular s { u with numeric := n, exc9Pending := b } :=
  { k.toKeptCore.trans (.setNumeric u n b) with
    iopl := fun _ => by rw [hf]
    ie := fun _ => by rw [hf]; exact id
    mode := hm
    numeric := hn }

theorem Regular.wait (h : exec .wait s = .next t) : Regular s t := by
  have h : Machine.complete s (do
      require (!(s.ts && s.mp)) (.trap .extensionNotAvailable none)
      numericReady s
      pure { s with numeric := { s.numeric with busy := .idle } }.advance) = .next t := h
  refine .complete_restartable h (.bind (.require _ trivial) fun _ => .bind (.numericReady s) fun _ => .ok _) fun u hu => ?_
  simp only [Try.bind_eq_ok, Try.pure_eq_ok] at hu
  obtain ⟨-, -, -, -, rfl⟩ := hu
  have hn : Regular s { s with numeric := { s.numeric with busy := .idle } } :=
    .setNumeric (.refl s) rfl s.exc9Pending rfl fun h => ⟨h.addresses, h.masked, fun hb => by cases hb⟩
  exact hn.trans_same (.advance _) rfl

theorem Regular.fninit (h : exec .fninit s = .next t) : Regular s t := by
  have h : Machine.complete s (do
      escapeAvailable s
      pure { s with numeric := numericInitialised s s.numeric.mode }.advance) = .next t := h
  refine .complete_restartable h (.bind (.escapeAvailable s) fun _ => .ok _) fun u hu => ?_
  simp only [Try.bind_eq_ok, Try.pure_eq_ok] at hu
  obtain ⟨-, -, rfl⟩ := hu
  have hn : Regular s { s with numeric := numericInitialised s s.numeric.mode } :=
    .setNumeric (.refl s) rfl s.exc9Pending rfl fun _ => numericInitialised_inv s _
  exact hn.trans_same (.advance _) rfl

theorem Kept.storeNumericWords (s : State) {a n : Nat} (j : Nat) (h : a + 2 * n ≤ physicalSize) :
    Kept s (storeNumericWords s a j n) := by
  induction n generalizing s a j with
  | zero => exact .refl s
  | succ n ih => exact (Kept.setWord s _ (by omega)).trans (ih _ (j + 1) (by omega))

theorem storeNumericWords_flags (s : State) (a j n : Nat) : (storeNumericWords s a j n).flags = s.flags := by
  have h := congrArg State.flags (storeNumericWords_same s a j n)
  exact h

/-- The words an ESC transfers lie inside the physical space where its check of it passes. -/
theorem escapeWords_inside {op reg : BitVec 3} {m : MemOperand} {a : Nat}
    (ha : operandAddress s m 2 (escapeKind op reg) = .ok a)
    (hp : (!(decide (physicalSize < (s.seg (s.operandSegment m)).cache.base.toNat + 0x10000) &&
      decide (physicalSize < a + 2 * escapeWords s op reg m))) = true) :
    a + 2 * escapeWords s op reg m ≤ physicalSize := by
  have haddr := (lin_address ha).1
  have hoff := lin_bound ha
  have hbound : (effectiveOffset s.regs m).toNat + 2 * escapeWords s op reg m ≤ 0x10000 :=
    wordsInside_bound _ _ _ (by omega)
  simp only [Bool.not_eq_true', Bool.and_eq_false_iff, decide_eq_false_iff_not, Nat.not_lt] at hp
  omega

theorem Regular.escapeTransfer {op reg : BitVec 3} {m : MemOperand} {a : Nat}
    (h : a + 2 * escapeWords s op reg m ≤ physicalSize) : Regular s (escapeTransfer s op reg m a) := by
  have hn : s.numeric.Inv → (numericAfter s (escapeOverruns s op reg m)
      (numericAddress s.numeric.mode (s.seg (s.operandSegment m)).val (effectiveOffset s.regs m))).Inv :=
    fun _ => numericAfter_inv _ fun hm => numericAddress_isPhysical hm _ _
  unfold Machine.escapeTransfer
  dsimp only
  split
  · exact .setNumeric (.storeNumericWords s 0 h) (storeNumericWords_flags ..) _ rfl hn
  · exact .setNumeric (.refl s) rfl _ rfl hn

theorem Regular.esc {op reg : BitVec 3} {o : Rm (BitVec 3)} (h : exec (.esc op reg o) s = .next t) : Regular s t := by
  cases o with
  | reg r =>
    have h : Machine.complete s (do
        escapeAvailable s
        numericReady s
        pure { s with numeric := numericAfter s false s.numeric.fdp }.advance) = .next t := h
    refine .complete_restartable h (.bind (.escapeAvailable s) fun _ => .bind (.numericReady s) fun _ => .ok _) fun u hu => ?_
    simp only [Try.bind_eq_ok, Try.pure_eq_ok] at hu
    obtain ⟨-, -, -, -, rfl⟩ := hu
    have hn : Regular s { s with numeric := numericAfter s false s.numeric.fdp } :=
      .setNumeric (.refl s) rfl s.exc9Pending rfl fun h => numericAfter_inv _ fun hm => (h.addresses hm).2
    exact hn.trans_same (.advance _) rfl
  | mem m =>
    have h : Machine.complete s (do
        escapeAvailable s
        numericReady s
        let a ← operandAddress s m 2 (escapeKind op reg)
        require (!(decide (physicalSize < (s.seg (s.operandSegment m)).cache.base.toNat + 0x10000) &&
          decide (physicalSize < a + 2 * escapeWords s op reg m))) (.refuse .beyondPhysicalSpace)
        pure (Machine.escapeTransfer s op reg m a).advance) = .next t := h
    refine .complete_restartable h (.bind (.escapeAvailable s) fun _ => .bind (.numericReady s) fun _ => .bind (.lin ..) fun _ =>
      .bind (.require _ trivial) fun _ => .ok _) fun u hu => ?_
    simp only [Try.bind_eq_ok, Try.pure_eq_ok, require_ok_iff] at hu
    obtain ⟨-, -, -, -, a, ha, -, hp, rfl⟩ := hu
    exact (Regular.escapeTransfer (escapeWords_inside ha hp)).trans_same (.advance _) rfl

end

end Sys2Proof.Machine
end

section
/-! PROOFS. The statements over every step (10_state.md, 43_io_and_lock.md): what each instruction and each event at a boundary
keeps, carried along the prefixes of an instruction. -/

namespace Sys2Proof.Machine

/-! ### Every instruction -/

/-- How an instruction that answers a next state ended. -/
inductive Ended (i : Instr) (s t : State) : Prop where
  | regular (h : Regular s t)
  | loadall (hi : i = .loadall) (hc : s.cpl = 0#2) (ht : t = afterLoadall s)
  | fsetpm (hi : i = .fsetpm) (ht : t = { s with numeric := { s.numeric with mode := .prot } }.ended)

theorem Ended.of_loadall {s t : State} (h : exec .loadall s = .next t) : Ended .loadall s t := by
  rw [exec_loadall] at h
  rcases complete_next h with ⟨u, hu, rfl⟩ | ⟨x, ec, -, h⟩ | ⟨u, x, ec, hu, -⟩
  · simp only [Try.bind_eq_ok, require_ok_iff, loadall_permitted_iff, Try.pure_eq_ok, exists_const] at hu
    obtain ⟨hp, -, rfl⟩ := hu
    exact .loadall rfl (hp.elim State.cpl_of_real id) rfl
  · exact .regular (.takeException (.of_kept (.refl s) rfl) h)
  · have hc : Restartable (do
        require (!(s.prot && decide (s.cpl ≠ 0#2))) protectionFault
        require (imageInside s.platform.loadall) (.refuse .beyondPhysicalSpace)
        pure ((loadedState s).jump (s.word s.platform.loadall.ip))) :=
      .bind (.require _ trivial) fun _ => .bind (.require _ trivial) fun _ => .ok _
    exact (hc.inPlace _ hu).elim

theorem exec_fsetpm (s : State) :
    exec .fsetpm s = complete s (do
      escapeAvailable s
      numericNotStuck s
      pure { s with numeric := { s.numeric with mode := .prot } }.advance) := rfl

theorem Ended.of_fsetpm {s t : State} (h : exec .fsetpm s = .next t) : Ended .fsetpm s t := by
  rw [exec_fsetpm] at h
  rcases complete_next h with ⟨u, hu, rfl⟩ | ⟨x, ec, -, h⟩ | ⟨u, x, ec, hu, -⟩
  · simp only [Try.bind_eq_ok, Try.pure_eq_ok] at hu
    obtain ⟨-, -, -, -, rfl⟩ := hu
    exact .fsetpm rfl rfl
  · exact .regular (.takeException (.of_kept (.refl s) rfl) h)
  · have hc : Restartable (do
        escapeAvailable s
        numericNotStuck s
        pure { s with numeric := { s.numeric with mode := .prot } }.advance) :=
      .bind (.escapeAvailable s) fun _ => .bind (.require _ trivial) fun _ => .ok _
    exact (hc.inPlace _ hu).elim

theorem Regular.remembered {s : State} {o : Option SegReg} {b : Bool} :
    Regular s { s with override := o, lock := b, prefixLen := s.prefixLen + 1 } := .of_kept (.of_same rfl) rfl

/-- A prefix changes nothing but what is remembered of it, and LOCK may take exception 13. -/
theorem Regular.of_isPrefix {i : Instr} {s t : State} (hi : isPrefix i = true) (h : exec i s = .next t) : Regular s t := by
  rcases isPrefix_cases hi with ⟨r, rfl⟩ | rfl
  · rw [exec_prefixInstr] at h
    cases h
    exact .remembered (b := s.lock)
  · cases hv : s.ioplViolated with
    | false =>
      rw [exec_lock_permitted hv] at h
      cases h
      exact .remembered (o := s.override)
    | true =>
      rw [exec_lock_violated hv] at h
      exact .takeException (.of_kept (.refl s) rfl) h

/-- Every instruction, by the operation it is a form of. -/
theorem exec_ended {i : Instr} {s t : State} (h : exec i s = .next t) : Ended i s t := by
  cases i
  case loadall => exact .of_loadall h
  case fsetpm => exact .of_fsetpm h
  all_goals refine .regular ?_
  case esPrefix | csPrefix | ssPrefix | dsPrefix | lock => exact .of_isPrefix rfl h
  case popEs | popSs | popDs => exact .popSegment h
  case movSregRm16 => exact .movSreg h
  case les | lds => exact .loadFarPointer h
  case adcRm8R8 | adcRm8Imm8 | sbbRm8R8 | sbbRm8Imm8 => exact .carryRm size8_stores h
  case adcRm16R16 | adcRm16Imm16 | adcRm16SextImm8 | sbbRm16R16 | sbbRm16Imm16 | sbbRm16SextImm8 =>
    exact .carryRm size16_stores h
  case adcAlImm8 imm => exact .carryRm (op := .adc) (dst := .reg .al) (b := imm) size8_stores h
  case adcAxImm16 imm => exact .carryRm (op := .adc) (dst := .reg .ax) (b := imm) size16_stores h
  case sbbAlImm8 imm => exact .carryRm (op := .sbb) (dst := .reg .al) (b := imm) size8_stores h
  case sbbAxImm16 imm => exact .carryRm (op := .sbb) (dst := .reg .ax) (b := imm) size16_stores h
  case adcR8Rm8 | sbbR8Rm8 => exact .carryReg size8_stores h
  case adcR16Rm16 | sbbR16Rm16 => exact .carryReg size16_stores h
  case xchgRm8R8 => exact .exchange size8_stores h
  case xchgRm16R16 => exact .exchange size16_stores h
  case xchgAxR16 src => exact .exchange (dst := .reg .ax) (src := src) size16_stores h
  case movRm8R8 => exact .writeRm size8_stores h
  case movRm16R16 | movRm16Sreg => exact .writeRm size16_stores h
  case movR8Rm8 => exact .loadRegister (z := size8) h
  case movR16Rm16 => exact .loadRegister (z := size16) h
  case rolRm8One | rolRm8Cl | rolRm8Imm8 | rorRm8One | rorRm8Cl | rorRm8Imm8 | rclRm8One | rclRm8Cl | rclRm8Imm8 | rcrRm8One
    | rcrRm8Cl | rcrRm8Imm8 | shlRm8One | shlRm8Cl | shlRm8Imm8 | shrRm8One | shrRm8Cl | shrRm8Imm8 | sarRm8One | sarRm8Cl
    | sarRm8Imm8 => exact .shiftRm size8_stores h
  case rolRm16One | rolRm16Cl | rolRm16Imm8 | rorRm16One | rorRm16Cl | rorRm16Imm8 | rclRm16One | rclRm16Cl | rclRm16Imm8
    | rcrRm16One | rcrRm16Cl | rcrRm16Imm8 | shlRm16One | shlRm16Cl | shlRm16Imm8 | shrRm16One | shrRm16Cl | shrRm16Imm8
    | sarRm16One | sarRm16Cl | sarRm16Imm8 => exact .shiftRm size16_stores h
  case divRm8 | idivRm8 => exact .divide (z := size8) (fun _ => ⟨_, _, rfl⟩) h
  case divRm16 | idivRm16 => exact .divide (z := size16) (fun _ => ⟨_, _, rfl⟩) h
  case pushSp | pushf => exact .pushed h
  case popf => exact .popf h
  case int3 | intImm8 => exact .softwareInterrupt h
  case iret => exact .iret h
  case sti | cli => exact .setIe h
  case nop => exact .complete_restartable (c := .ok s.advance) h (.ok _) (by rintro _ ⟨⟩; exact .advance s)
  case jmpRel8 | jmpRel16 => exact .jumpNear h
  case jmpFar => exact .jmpFar h
  case inAlImm8 port => exact .portInstr (op := .inByte) (form := .imm port) h
  case inAxImm8 port => exact .portInstr (op := .inWord) (form := .imm port) h
  case inAlDx => exact .portInstr (op := .inByte) (form := .dx) h
  case inAxDx => exact .portInstr (op := .inWord) (form := .dx) h
  case outImm8Al port => exact .portInstr (op := .outByte) (form := .imm port) h
  case outImm8Ax port => exact .portInstr (op := .outWord) (form := .imm port) h
  case outDxAl => exact .portInstr (op := .outByte) (form := .dx) h
  case outDxAx => exact .portInstr (op := .outWord) (form := .dx) h
  case wait => exact .wait h
  case esc => exact .esc h
  case fninit => exact .fninit h

/-- No prefix is pending or remembered: the next step is at an instruction boundary. -/
structure State.AtRest (s : State) : Prop where
  prefixLen : s.prefixLen = 0
  override : s.override = none
  lock : s.lock = false

theorem State.AtRest.finish (s : State) : s.finish.AtRest := ⟨rfl, rfl, rfl⟩

theorem takeException_atRest {s t : State} {x : Exc} {ec : Option Word} (h : takeException s x ec = .next t) : t.AtRest := by
  obtain ⟨u, -, rfl⟩ := takeException_next.mp h
  exact .finish u

theorem complete_atRest {s t : State} {c : Try State} (h : complete s c = .next t) : t.AtRest := by
  rcases complete_next h with ⟨u, -, rfl⟩ | ⟨x, ec, -, h⟩ | ⟨u, x, ec, -, h⟩
  · exact .finish u
  · exact takeException_atRest h
  · exact takeException_atRest h

/-- An instruction that is no prefix ends at a boundary. -/
theorem exec_atRest {i : Instr} {s t : State} (hi : isPrefix i = false) (h : exec i s = .next t) : t.AtRest := by
  cases i
  case esPrefix | csPrefix | ssPrefix | dsPrefix | lock => cases hi
  case adcAlImm8 | adcAxImm16 | sbbAlImm8 | sbbAxImm16 | nop | xchgAxR16 =>
    cases h
    exact .finish _
  all_goals exact complete_atRest h

/-- A prefix that does not end at a boundary was remembered. -/
theorem exec_isPrefix {i : Instr} {s t : State} (hi : isPrefix i = true) (h : exec i s = .next t) :
    t.AtRest ∨ ∃ o b, t = { s with override := o, lock := b, prefixLen := s.prefixLen + 1 } := by
  rcases isPrefix_cases hi with ⟨r, rfl⟩ | rfl
  · rw [exec_prefixInstr] at h
    cases h
    exact .inr ⟨_, s.lock, rfl⟩
  · cases hv : s.ioplViolated with
    | false =>
      rw [exec_lock_permitted hv] at h
      cases h
      exact .inr ⟨s.override, _, rfl⟩
    | true =>
      rw [exec_lock_violated hv] at h
      exact .inl (takeException_atRest h)

theorem exec_rest {i : Instr} {s t : State} (h : exec i s = .next t) : t.AtRest ∨ t.prefixLen ≠ 0 := by
  cases hi : isPrefix i with
  | false => exact .inl (exec_atRest hi h)
  | true =>
    rcases exec_isPrefix hi h with ht | ⟨o, b, rfl⟩
    · exact .inl ht
    · exact .inr (Nat.succ_ne_zero _)

/-! ### Every fetch -/

/-- The step is a RESET of the 80286. -/
def State.isReset (s : State) : Prop := s.prefixLen = 0 ∧ s.inputs.head? = some .reset

/-- The step is a RESET of the 80287. -/
def State.isNumericReset (s : State) : Prop := s.prefixLen = 0 ∧ s.inputs.head? = some .resetNumeric

/-- What a fetch that answers a next state did: it ran an instruction, entered a handler, or was a RESET. -/
inductive Fetched (s t : State) : Prop where
  | ran {i : Instr} {rest : List Byte} (hd : decode (fetchWindow s.fetching) = .instr i rest)
      (h : exec i (s.atInstruction ((fetchWindow s.fetching).length - rest.length)) = .next t)
  | entered (h : Regular s.fetching t) (hr : t.AtRest)
  | reset (h : s.isReset) (ht : t = s.fetching.afterReset)
  | resetNumeric (h : s.isNumericReset) (ht : t = s.fetching.afterNumericReset)

theorem Restartable.fetchByte (s : State) (off : Nat) : Restartable (fetchByte s off) := .bind (.lin ..) fun _ => .ok _

/-- A fetch failure that answers a next state is an exception, with IP at the byte. -/
theorem fetchFailure_next {s t : State} {off : Nat} (h : fetchFailure s off = .next t) : Regular s t ∧ t.AtRest := by
  unfold fetchFailure at h
  split at h
  · cases h
  · rename_i e he
    have hin := (Restartable.fetchByte s off).inPlace e he
    cases e with
    | trap x ec =>
      have hip : Regular s { s with ip := BitVec.ofNat 16 off, ipPastEnd := false } := .of_kept (.of_same rfl) rfl
      exact ⟨.takeException hip h, takeException_atRest h⟩
    | trapIn u x ec => exact hin.elim
    | refuse r => cases h

/-- A fetch of an instruction that answers a next state ran it, or took the exception of a byte that cannot be fetched. -/
theorem fetchInstr_next {s t : State} (h : (fetchInstr s.fetching).outcome = .next t) : Fetched s t := by
  unfold fetchInstr at h
  dsimp only at h
  split at h
  · rename_i i rest hd
    split at h
    · cases h
    · exact .ran hd h
  · cases h
  · split at h
    · cases h
    · obtain ⟨hk, hr⟩ := fetchFailure_next h
      exact .entered hk hr

/-- Delivering a pending exception 9 keeps what an entry keeps. -/
theorem deliverOverrun_next {s t : State} (h : deliverOverrun s = .next t) : Regular s t ∧ t.AtRest := by
  have hpending : Regular s { s with exc9Pending := false } := .setNumeric (.refl s) rfl false rfl id
  exact ⟨.takeException hpending h, takeException_atRest h⟩

/-- An action that the guard lets answer a next state is not refused. -/
theorem guarded_next {s t : State} {a : Action} (h : (guarded s a).outcome = .next t) : a.outcome = .next t := by
  rcases guarded_cases s a with e | ⟨r, e⟩
  · rwa [e] at h
  · rw [e] at h
    cases h

/-- Every fetch that answers a next state, by the event at the boundary. -/
theorem fetchAndRun_next {s t : State} (h : fetchAndRun s = .next t) : Fetched s t := by
  rw [fetchAndRun_eq] at h
  by_cases h0 : s.prefixLen = 0
  · rw [nextAction_boundary h0] at h
    have hhead : ∀ e, s.event = e → e ≠ .exception9 → s.inputs.head? = some e := by
      rintro e rfl he
      unfold State.event at he ⊢
      cases hi : s.inputs.head? with
      | none =>
        rw [hi] at he
        exact absurd rfl he
      | some e => rfl
    cases he : s.event with
    | quiet =>
      rw [he] at h
      exact fetchInstr_next (guarded_next h)
    | interrupt n =>
      rw [he] at h
      have h := guarded_next h
      split at h
      · exact .entered (.externalInterrupt h) (complete_atRest h)
      · exact fetchInstr_next h
    | exception9 =>
      rw [he] at h
      have h := guarded_next h
      split at h
      · obtain ⟨hk, hr⟩ := deliverOverrun_next h
        exact .entered hk hr
      · exact fetchInstr_next h
    | reset =>
      rw [he] at h
      cases h
      exact .reset ⟨h0, hhead _ he nofun⟩ rfl
    | resetNumeric =>
      rw [he] at h
      cases h
      exact .resetNumeric ⟨h0, hhead _ he nofun⟩ rfl
  · rw [nextAction_inside h0] at h
    exact fetchInstr_next h

/-- A step that goes on has read a prefix, which left the rest of the state as it was. -/
theorem fetchAndRun_goesOn {s t : State} (h : fetchAndRun s = .next t) (hg : t.goesOn = true) :
    ∃ p rest o b n, decode (fetchWindow s.fetching) = .instr p rest ∧ isPrefix p = true ∧
      exec p (s.atInstruction n) = .next t ∧ n = (fetchWindow s.fetching).length - rest.length ∧
      t = { s.atInstruction n with override := o, lock := b, prefixLen := s.prefixLen + 1 } := by
  have hp : t.prefixLen ≠ 0 := of_decide_eq_true hg
  cases fetchAndRun_next h with
  | @ran i rest hd hx =>
    cases hi : isPrefix i with
    | false => exact absurd (exec_atRest hi hx).prefixLen hp
    | true =>
      rcases exec_isPrefix hi hx with hr | ⟨o, b, ht⟩
      · exact absurd hr.prefixLen hp
      · exact ⟨i, rest, o, b, _, hd, hi, hx, rfl, ht⟩
  | entered _ hr => exact absurd hr.prefixLen hp
  | reset _ ht => exact absurd (by rw [ht]; rfl) hp
  | resetNumeric hn ht => exact absurd (by rw [ht]; exact hn.1) hp

/-! ### The invariant -/

/-- `State.Inv` but for the prefixes. -/
structure State.Sound (s : State) : Prop where
  memory : s.mem.wf = true
  physical : ∀ c ∈ s.mem, c.1 < physicalSize
  entries : ∀ r, (s.seg r).cache.consistent = true
  numeric : s.numeric.Inv

theorem State.Inv.sound {s : State} (h : s.Inv) : s.Sound := ⟨h.memory, h.physical, h.entries, h.addresses, h.masked, h.stuck⟩

theorem State.Sound.of_regular {s t : State} (h : s.Sound) (k : Regular s t) : t.Sound :=
  ⟨k.wf h.memory, k.physical h.physical, k.entries h.entries, k.numeric h.numeric⟩

/-- LOADALL's entries are consistent, whatever their bytes (41_loadall.md R171). -/
theorem State.Sound.afterLoadall {s : State} (h : s.Sound) : (afterLoadall s).Sound where
  memory := h.memory
  physical := h.physical
  entries r := by cases r <;> exact SegCache.ofAccess_consistent ..
  numeric := h.numeric

theorem State.Sound.of_exec {i : Instr} {s t : State} (h : s.Sound) (hx : exec i s = .next t) : t.Sound := by
  cases exec_ended hx with
  | regular k => exact h.of_regular k
  | loadall _ _ ht => exact ht ▸ h.afterLoadall
  | fsetpm _ ht =>
    have hn : Numeric.Inv { s.numeric with mode := .prot } := ⟨nofun, h.numeric.masked, h.numeric.stuck⟩
    subst ht
    exact ⟨h.memory, h.physical, fun r => by have := h.entries r; cases r <;> exact this, hn⟩

theorem State.Sound.atInstruction {s : State} (h : s.Sound) (n : Nat) : (s.atInstruction n).Sound :=
  ⟨h.memory, h.physical, fun r => by have := h.entries r; cases r <;> exact this, h.numeric⟩

theorem State.Sound.fetching {s : State} (h : s.Sound) : s.fetching.Sound :=
  ⟨h.memory, h.physical, fun r => by have := h.entries r; cases r <;> exact this, h.numeric⟩

/-- The entries after RESET are consistent (10_state.md R53). -/
theorem State.reset_entries (r : SegReg) : (State.reset.seg r).cache.consistent = true := by cases r <;> decide

theorem State.Sound.of_fetch {s t : State} (h : s.Sound) (hf : fetchAndRun s = .next t) : t.Sound := by
  cases fetchAndRun_next hf with
  | ran _ hx => exact (h.atInstruction _).of_exec hx
  | entered k _ => exact h.fetching.of_regular k
  | reset _ ht => exact ht ▸ ⟨h.memory, h.physical, fun r => State.reset_entries r, h.numeric⟩
  | resetNumeric _ ht => exact ht ▸ ⟨h.memory, h.physical, h.fetching.entries, numericInitialised_inv _ _⟩

/-- What is remembered of prefixes after one fetch. -/
theorem fetchAndRun_rest {s t : State} (hs : s.Inv) (hf : fetchAndRun s = .next t) : t.AtRest ∨ t.prefixLen ≠ 0 := by
  cases fetchAndRun_next hf with
  | ran _ hx => exact exec_rest hx
  | entered _ hr => exact .inl hr
  | reset _ ht => exact .inl (ht ▸ ⟨rfl, rfl, rfl⟩)
  | resetNumeric hn ht =>
    obtain ⟨ho, hl⟩ := hs.boundary hn.1
    exact .inl (ht ▸ ⟨hn.1, ho, hl⟩)

theorem State.Inv.of_fetch {s t : State} (h : s.Inv) (hf : fetchAndRun s = .next t) : t.Inv := by
  obtain ⟨hmem, hphys, hentries, hnum⟩ := h.sound.of_fetch hf
  refine ⟨hmem, hphys, hentries, ?prefixes, fun h0 => ?boundary, hnum.addresses, hnum.masked, hnum.stuck⟩
  case prefixes =>
    by_cases h0 : t.prefixLen = 0
    · rw [h0]
      exact Nat.zero_le _
    · obtain ⟨hlen, hlt⟩ := fetchAndRun_prefixLen hf h0
      omega
  case boundary =>
    rcases fetchAndRun_rest h hf with hr | hn
    · exact ⟨hr.override, hr.lock⟩
    · exact absurd h0 hn

/-- Settles O3: the invariant is kept by one fetch, so by the fetches of a step. -/
theorem stepKeepsInvariant : Obligations.StepKeepsInvariant := by
  unfold Obligations.StepKeepsInvariant
  intro s t hs h
  exact step_induction (P := fun s t => s.Inv → t.Inv) (fun hf hs => hs.of_fetch hf)
    (fun hf _ ht hs => ht (hs.of_fetch hf)) h hs

/-! ### The system registers and the modes -/

/-- The system registers that only LOADALL and RESET write are the same. -/
structure SameSystemRegisters (s t : State) : Prop where
  msw : t.msw = s.msw
  gdtr : t.gdtr = s.gdtr
  idtr : t.idtr = s.idtr
  ldtr : t.ldtr = s.ldtr
  tr : t.tr = s.tr

theorem State.prot_of_msw {s t : State} (h : t.msw = s.msw) : t.prot = s.prot := by rw [State.prot, h, State.prot]

/-- LOADALL does not leave protected mode (41_loadall.md R166). -/
theorem afterLoadall_prot {s : State} (h : s.prot = true) : (afterLoadall s).prot = true := by
  have hmsw : (afterLoadall s).msw = s.word s.platform.loadall.msw ||| (s.msw &&& 0x0001#16) := rfl
  have hpe : s.msw.getLsbD 0 = true := h
  rw [State.prot, hmsw, BitVec.getLsbD_or, BitVec.getLsbD_and, hpe]
  simp

/-- What the obligation says of a step from `s` to `t`. -/
structure SystemKept (s t : State) : Prop where
  registers : ¬s.isReset → ¬Runs s .loadall → SameSystemRegisters s t
  prot : ¬s.isReset → s.prot = true → t.prot = true
  mode : t.numeric.mode ≠ s.numeric.mode → 
    (t.numeric.mode = .prot ∧ Runs s .fsetpm) ∨ (t.numeric.mode = .real ∧ s.isNumericReset)
  platform : t.platform = s.platform

theorem SystemKept.of_regular {s u t : State} (hu : SystemKept s u) (hm : u.numeric.mode = s.numeric.mode)
    (hr : SameSystemRegisters s u) (h : Regular u t) : SystemKept s t where
  registers _ _ :=
    ⟨h.msw.trans hr.msw, h.gdtr.trans hr.gdtr, h.idtr.trans hr.idtr, h.ldtr.trans hr.ldtr, h.tr.trans hr.tr⟩
  prot _ hp := by rw [State.prot_of_msw (h.msw.trans hr.msw), hp]
  mode hne := absurd (h.mode.trans hm) hne
  platform := h.platform.trans hu.platform

theorem SystemKept.refl {s u : State} (hr : SameSystemRegisters s u) (hm : u.numeric.mode = s.numeric.mode)
    (hp : u.platform = s.platform) : SystemKept s u where
  registers _ _ := hr
  prot _ h := by rw [State.prot_of_msw hr.msw, h]
  mode hne := absurd hm hne
  platform := hp

theorem SystemKept.of_fetch {s t : State} (hf : fetchAndRun s = .next t) : SystemKept s t := by
  have hfetching : SystemKept s s.fetching := .refl ⟨rfl, rfl, rfl, rfl, rfl⟩ rfl rfl
  cases fetchAndRun_next hf with
  | @ran i rest hd hx =>
    have hat : SystemKept s (s.atInstruction ((fetchWindow s.fetching).length - rest.length)) :=
      .refl ⟨rfl, rfl, rfl, rfl, rfl⟩ rfl rfl
    cases exec_ended hx with
    | regular k => exact hat.of_regular rfl ⟨rfl, rfl, rfl, rfl, rfl⟩ k
    | loadall hi _ ht =>
      subst hi ht
      exact ⟨fun _ hn => absurd (.here hd) hn, fun _ hp => afterLoadall_prot hp, fun hne => absurd rfl hne, rfl⟩
    | fsetpm hi ht =>
      subst hi ht
      exact ⟨fun _ _ => ⟨rfl, rfl, rfl, rfl, rfl⟩, fun _ hp => hp, fun _ => .inl ⟨rfl, .here hd⟩, rfl⟩
  | entered k _ => exact hfetching.of_regular rfl ⟨rfl, rfl, rfl, rfl, rfl⟩ k
  | reset hr ht =>
    subst ht
    exact ⟨fun hn => absurd hr hn, fun hn => absurd hr hn, fun hne => absurd rfl hne, rfl⟩
  | resetNumeric hr ht =>
    subst ht
    exact ⟨fun _ _ => ⟨rfl, rfl, rfl, rfl, rfl⟩, fun _ hp => hp, fun _ => .inr ⟨rfl, hr⟩, rfl⟩

/-- A prefix before a step changes nothing that the obligation speaks of, and the step runs what the rest of it runs. -/
theorem SystemKept.of_goesOn {s t u : State} (hf : fetchAndRun s = .next t) (hg : t.goesOn = true) (h : SystemKept t u) :
    SystemKept s u := by
  obtain ⟨p, rest, o, b, n, hd, hp, hx, rfl, ht⟩ := fetchAndRun_goesOn hf hg
  have hlen : t.prefixLen ≠ 0 := of_decide_eq_true hg
  have later : ∀ i, Runs t i → Runs s i := fun i hi => .later hd hp hx hlen hi
  have hreset : ¬t.isReset := fun hr => hlen hr.1
  have hsame : SameSystemRegisters s t := by
    rw [ht]
    exact ⟨rfl, rfl, rfl, rfl, rfl⟩
  have hmode : t.numeric.mode = s.numeric.mode := by rw [ht]; rfl
  refine ⟨fun _ hn => ?registers, fun _ hprot => ?prot, fun hne => ?mode, h.platform.trans (by rw [ht]; rfl)⟩
  case registers =>
    have k := h.registers hreset fun hr => hn (later _ hr)
    exact ⟨k.msw.trans hsame.msw, k.gdtr.trans hsame.gdtr, k.idtr.trans hsame.idtr, k.ldtr.trans hsame.ldtr,
      k.tr.trans hsame.tr⟩
  case prot => exact h.prot hreset (by rw [State.prot_of_msw hsame.msw, hprot])
  case mode =>
    rcases h.mode (by rwa [hmode]) with ⟨hm, hr⟩ | ⟨-, hr⟩
    · exact .inl ⟨hm, later _ hr⟩
    · exact absurd hr.1 hlen

/-- Settles O59: along the prefixes of a step, then by what its last fetch did. -/
theorem systemRegistersKept : Obligations.SystemRegistersKept := by
  unfold Obligations.SystemRegistersKept
  intro s t h
  obtain ⟨hregs, hprot, hmode, hplatform⟩ := step_induction (P := SystemKept) .of_fetch .of_goesOn h
  refine ⟨fun hr hn => ?_, hprot, hmode, hplatform⟩
  obtain ⟨hmsw, hgdtr, hidtr, hldtr, htr⟩ := hregs hr hn
  exact ⟨hmsw, hgdtr, hidtr, hldtr, htr⟩

/-! ### IOPL and IF -/

/-- At a level other than 0 IOPL is kept, and at a level above it interrupts stay disabled. -/
structure FlagsProtected (s t : State) : Prop where
  iopl : t.flags.iopl = s.flags.iopl
  ie : s.flags.iopl < s.cpl → t.flags.ie = true → s.flags.ie = true

theorem FlagsProtected.of_fetch {s t : State} (hf : fetchAndRun s = .next t) (hr : ¬s.isReset) (hc : s.cpl ≠ 0#2) :
    FlagsProtected s t := by
  cases fetchAndRun_next hf with
  | @ran i rest hd hx =>
    cases exec_ended hx with
    | regular k => exact ⟨k.iopl hc, k.ie⟩
    | loadall _ h0 _ => exact absurd h0 hc
    | fsetpm _ ht => exact ht ▸ ⟨rfl, fun _ h => h⟩
  | entered k _ => exact ⟨k.iopl hc, k.ie⟩
  | reset h _ => exact absurd h hr
  | resetNumeric _ ht => exact ht ▸ ⟨rfl, fun _ h => h⟩

/-- Settles O60: the prefixes of a step change neither the flags nor the level. -/
theorem privilegedFlagsKept : Obligations.PrivilegedFlagsKept := by
  unfold Obligations.PrivilegedFlagsKept
  intro s t h hr hc
  have hstep : ¬s.isReset → s.cpl ≠ 0#2 → FlagsProtected s t := by
    refine step_induction (P := fun s t => ¬s.isReset → s.cpl ≠ 0#2 → FlagsProtected s t) .of_fetch ?_ h
    intro s t u hf hg k _ hc
    obtain ⟨p, rest, o, b, n, -, -, -, -, ht⟩ := fetchAndRun_goesOn hf hg
    have hlen : t.prefixLen ≠ 0 := of_decide_eq_true hg
    have hflags : t.flags = s.flags := by rw [ht]; rfl
    have hcpl : t.cpl = s.cpl := by rw [ht]; rfl
    obtain ⟨hiopl, hie⟩ := k (fun hr => hlen hr.1) (by rwa [hcpl])
    rw [hflags, hcpl] at hie
    exact ⟨by rw [hiopl, hflags], hie⟩
  obtain ⟨hiopl, hie⟩ := hstep hr hc
  exact ⟨hiopl, hie⟩

end Sys2Proof.Machine
end

section
/-! PROOFS. Reset, memory and the prefetcher, MOV and the loads of a segment register (10_state.md section 9, 20_memory.md,
40_segment_register_access.md). -/

namespace Sys2Proof.Machine

/-! ### Reset -/

/-- Settles O1: the reset values, and the first fetch. -/
theorem resetState : Obligations.ResetState := by
  unfold Obligations.ResetState
  refine ⟨by decide, rfl, by decide, rfl, rfl, fun r hr => ?_, rfl, rfl, by decide⟩
  cases r with
  | cs => exact absurd rfl hr
  | es | ss | ds => rfl

/-- Settles O2: memory is empty, the entries are those of `State.reset_entries`, and the 80287 is as FNINIT leaves it. -/
theorem resetMeetsInvariant : Obligations.ResetMeetsInvariant where
  memory := reset_mem_wf
  physical := by rintro _ ⟨⟩
  entries := State.reset_entries
  prefixes := Nat.zero_le _
  boundary _ := ⟨rfl, rfl⟩
  addresses _ := ⟨rfl, rfl⟩
  masked := by rintro ⟨⟩
  stuck := by rintro ⟨⟩

/-! ### Stores, and what the prefetcher may hold -/

/-- Settles O13: a store changes its bytes and reads back. -/
theorem storeThenLoad : Obligations.StoreThenLoad := by
  unfold Obligations.StoreThenLoad
  exact fun s a b v => ⟨.of_mem (State.setByte_platform ..) (State.setByte_freeIndex ..) rfl,
    .of_mem (State.setWord_platform ..) (State.setWord_freeIndex ..) rfl, fun w => State.setWord_word v w,
    State.setByte_discarded b, fun w => ⟨State.setByte_mem_wf a b w, State.setWord_mem_wf a v w⟩⟩

/-- Where nothing was written since the last flush a fetch returns the current byte. -/
theorem State.fetchedByte_current {s : State} {off a : Nat} (h : supersededAt s.superseded a = []) :
    s.fetchedByte off a = s.byteFor .fetch a := by
  rw [State.fetchedByte, h]

/-- A fetch returns the current byte or one that the address has held. -/
theorem State.fetchedByte_mem (s : State) (off a : Nat) :
    s.fetchedByte off a ∈ s.byteFor .fetch a :: supersededAt s.superseded a := by
  unfold State.fetchedByte
  split
  · exact List.mem_cons_self ..
  · have hlt : Config.staleChoice s.freeIndex off % ((supersededAt s.superseded a).length + 1) <
        (s.byteFor .fetch a :: supersededAt s.superseded a).length := Nat.mod_lt _ (Nat.succ_pos _)
    rw [List.getD_eq_getElem _ _ hlt]
    exact List.getElem_mem hlt

theorem supersededAt_eq_nil {l : List Host.Cell} {a : Nat} (h : ∀ c ∈ l, c.1 ≠ a) : supersededAt l a = [] := by
  have hf : l.filter (fun c => c.1 == a) = [] := List.filter_eq_nil_iff.mpr fun c hc => by simpa using h c hc
  rw [supersededAt, hf, List.map_nil]

theorem supersededAt_cons_same (l : List Host.Cell) (a : Nat) (b : Byte) :
    supersededAt ((a, b) :: l) a = b :: supersededAt l a := by
  simp [supersededAt]

theorem supersededAt_cons_other (l : List Host.Cell) {a c : Nat} (b : Byte) (h : c ≠ a) :
    supersededAt ((a, b) :: l) c = supersededAt l c := by
  simp [supersededAt, h.symm]

/-- A store to RAM that the prefetch window does not rule out adds the byte it replaced. -/
theorem State.setByte_supersededAt_same {s : State} {a : Nat} (v : Byte) (hw : s.writableAt a = true)
    (hp : s.platform.prefetchWindow = none) :
    supersededAt (s.setByte a v).superseded a = s.mem.read a :: supersededAt s.superseded a := by
  have hstale : s.canBeStale a = true := by rw [State.canBeStale, hp]
  rw [State.setByte, if_pos hw, if_pos hstale, supersededAt_cons_same]

theorem State.setByte_supersededAt_other (s : State) {a b : Nat} (v : Byte) (h : b ≠ a) :
    supersededAt (s.setByte a v).superseded b = supersededAt s.superseded b := by
  unfold State.setByte
  split
  · dsimp only
    split
    · exact supersededAt_cons_other _ _ h
    · rfl
  · rfl

/-- Settles O14: clause by clause, what a fetch returns and what a store adds to it. -/
theorem prefetchedBytes : Obligations.PrefetchedBytes := by
  unfold Obligations.PrefetchedBytes
  exact fun s off a v target => ⟨s.fetchedByte_mem off a, fun h => State.fetchedByte_current (supersededAt_eq_nil h),
    State.fetchedByte_current (s := s.jump target) rfl, State.byteFor_present .fetch, State.setByte_supersededAt_same v,
    fun b h => s.setByte_supersededAt_other v h⟩

/-! ### MOV -/

section
variable {ρ : Type} {w : Nat} {z : OpSize ρ w} {s : State}

theorem readRm_mem_error {m : MemOperand} {e : Stop} (h : operandAddress s m z.bytes .read = .error e) :
    z.readRm s (.mem m) = .error e := by
  rw [OpSize.readRm, h, Try.bind_error]

theorem writeRm_mem_error {m : MemOperand} {e : Stop} (v : BitVec w) (h : operandAddress s m z.bytes .write = .error e) :
    z.writeRm s (.mem m) v = .error e := by
  rw [OpSize.writeRm, h, Try.bind_error]

theorem complete_loadRegister {dst : ρ} {src : Rm ρ} {v : BitVec w} (h : z.readRm s src = .ok v) :
    complete s (loadRegister z s dst src) = .next (z.setReg s dst v).ended := by
  rw [loadRegister_ok.mpr ⟨v, h, rfl⟩]
  rfl

theorem complete_loadRegister_error {dst : ρ} {m : MemOperand} {e : Stop} (h : operandAddress s m z.bytes .read = .error e) :
    complete s (loadRegister z s dst (.mem m)) = endWith s e := by
  rw [loadRegister, readRm_mem_error h, Try.bind_error, complete_error]

/-- The forms of MOV that write an r/m operand. -/
theorem complete_writeRm {o : Rm ρ} {v : BitVec w} {t : State} (h : z.writeRm s o v = .ok t) :
    complete s (z.writeRm s o v >>= fun u => pure u.advance) = .next t.ended := by
  rw [h]
  rfl

theorem complete_writeRm_error {m : MemOperand} {v : BitVec w} {e : Stop} (h : operandAddress s m z.bytes .write = .error e) :
    complete s (z.writeRm s (.mem m) v >>= fun u => pure u.advance) = endWith s e := by
  rw [writeRm_mem_error v h, Try.bind_error, complete_error]

theorem setReg_ended_sameBytes (z : OpSize ρ w) (s : State) (r : ρ) (v : BitVec w) : SameBytes s (z.setReg s r v).ended :=
  .of_mem rfl rfl rfl

end

/-- Settles O19: the operand is read, then the register written. -/
theorem loadRegister_holds : Obligations.LoadRegister := by
  unfold Obligations.LoadRegister
  refine ⟨fun s dst src v h => ⟨complete_loadRegister h, setReg_ended_sameBytes _ _ _ _, ?same8, fun q hq => ?other8⟩,
    fun s dst m e h => complete_loadRegister_error (z := size8) h,
    fun s dst m e h => complete_loadRegister_error (z := size16) h,
    fun s dst src v h => ⟨complete_loadRegister h, setReg_ended_sameBytes _ _ _ _, ?same16, fun q hq => ?other16⟩⟩
  case same8 => exact (Regs.get8_set8 ..).trans (if_pos rfl)
  case other8 => exact (Regs.get8_set8 ..).trans (if_neg hq)
  case same16 => exact (Regs.get16_set16 ..).trans (if_pos rfl)
  case other16 => exact (Regs.get16_set16 ..).trans (if_neg hq)

theorem setByte_ended_wrote (s : State) (a : Nat) (v : Byte) : WroteByte s (s.setByte a v).ended a v :=
  .of_mem (State.setByte_platform ..) (State.setByte_freeIndex ..) rfl

theorem setWord_ended_wrote (s : State) (a : Nat) (v : Word) : WroteWord s (s.setWord a v).ended a v :=
  .of_mem (State.setWord_platform ..) (State.setWord_freeIndex ..) rfl

/-- Settles O20: a register destination is always written, a memory destination where its address is given. -/
theorem storeRegister_holds : Obligations.StoreRegister := by
  unfold Obligations.StoreRegister
  have store8 : ∀ {s : State} {m : MemOperand} {a : Nat} (v : Byte), operandAddress s m 1 .write = .ok a →
      size8.writeRm s (.mem m) v = .ok (s.setByte a v) := fun v h => writeRm_mem.mpr ⟨_, h, rfl⟩
  have store16 : ∀ {s : State} {m : MemOperand} {a : Nat} (v : Word), operandAddress s m 2 .write = .ok a →
      size16.writeRm s (.mem m) v = .ok (s.setWord a v) := fun v h => writeRm_mem.mpr ⟨_, h, rfl⟩
  exact ⟨fun s d r => ⟨rfl, setReg_ended_sameBytes _ _ _ _⟩,
    fun s m r a h => ⟨complete_writeRm (store8 _ h), setByte_ended_wrote ..⟩,
    fun s m r e h => complete_writeRm_error (z := size8) h,
    fun s m r q e h => ⟨complete_writeRm_error (z := size16) h, complete_writeRm_error (z := size16) h⟩,
    fun s d r q => ⟨rfl, rfl, setReg_ended_sameBytes _ _ _ _, setReg_ended_sameBytes _ _ _ _⟩,
    fun s m r q a h => ⟨complete_writeRm (store16 _ h), complete_writeRm (store16 _ h), setWord_ended_wrote ..,
      setWord_ended_wrote ..⟩⟩

/-! ### Loads of a segment register -/

theorem State.holdOff_of_ne (s : State) {r : SegReg} (h : r ≠ .ss) : s.holdOff r = s := by
  simp [State.holdOff, h]

theorem exec_popInstr {r : SegReg} {i : Instr} (h : popInstr r = some i) (s : State) :
    exec i s = complete s (popSegment s r) := by
  cases r <;> cases h <;> rfl

theorem exec_farLoadInstr {r : SegReg} {i : Instr} {dst : Reg16} {m : MemOperand} (h : farLoadInstr dst m r = some i)
    (s : State) :
    exec i s = complete s (loadFarPointer s r dst m) := by
  cases r <;> cases h <;> rfl

theorem farLoadInstr_ne_ss {r : SegReg} {i : Instr} {dst : Reg16} {m : MemOperand} (h : farLoadInstr dst m r = some i) :
    r ≠ .ss := by
  rintro rfl
  cases h

theorem exec_movSregRm16 {r : SegReg} (hr : r ≠ .cs) (src : Rm Reg16) (s : State) :
    exec (.movSregRm16 r src) s =
      complete s (size16.readRm s src >>= fun v => loadSeg s r v >>= fun u => pure (u.holdOff r).advance) := by
  have hd : (!decide (r = .cs)) = true := by simpa using hr
  show execMovSregRm16 r src s = _
  rw [execMovSregRm16, hd, require_true, Try.bind_ok]

section
variable {s : State} {i : Instr} {r : SegReg} {v : Word} {f : State → State} (h : LoadsSegment s i r v f)
include h

/-- A load of a segment register whose operands can be read loads it and then does the rest. -/
theorem LoadsSegment.exec_eq : exec i s = complete s (loadSeg s r v >>= fun u => pure ((f u).holdOff r).advance) := by
  cases h with
  | mov r src v hr hv => rw [exec_movSregRm16 hr, hv, Try.bind_ok]; rfl
  | pop r i v hi hv => rw [exec_popInstr hi, popSegment, hv, Try.bind_ok]
  | far r i dst src a b hi ha hb =>
    have hold : ∀ u : State, (size16.setReg u dst (s.word a)).holdOff r = size16.setReg u dst (s.word a) :=
      fun u => State.holdOff_of_ne _ (farLoadInstr_ne_ss hi)
    rw [exec_farLoadInstr hi, loadFarPointer, ha, Try.bind_ok, hb, Try.bind_ok]
    simp only [hold]

theorem LoadsSegment.exec_ok {u : State} (hu : loadSeg s r v = .ok u) : exec i s = .next ((f u).holdOff r).ended := by
  rw [h.exec_eq, hu, Try.bind_ok]
  rfl

theorem LoadsSegment.exec_error {e : Stop} (he : loadSeg s r v = .error e) : exec i s = endWith s e := by
  rw [h.exec_eq, he, Try.bind_error, complete_error]

/-- Besides the segment register only general registers change. -/
theorem LoadsSegment.onlyRegs (t : State) : { f t with regs := t.regs } = t := by
  cases h <;> rfl

/-- Memory and the segment registers after the load. -/
theorem LoadsSegment.rest (t : State) :
    ((f t).holdOff r).ended.mem = t.mem ∧ ((f t).holdOff r).ended.platform = t.platform ∧
    ((f t).holdOff r).ended.freeIndex = t.freeIndex ∧ ∀ q, ((f t).holdOff r).ended.seg q = t.seg q := by
  have hf := h.onlyRegs t
  have hmem := congrArg State.mem hf
  have hplatform := congrArg State.platform hf
  have hfree := congrArg State.freeIndex hf
  refine ⟨hmem, hplatform, hfree, fun q => ?_⟩
  have hq := congrArg (State.seg · q) hf
  cases q <;> exact hq

/-- A load that changes one segment register of `s` changes no byte. -/
theorem LoadsSegment.sameBytes {g : Segment} : SameBytes s ((f (s.setSeg r g)).holdOff r).ended := by
  obtain ⟨hmem, hplatform, hfree, -⟩ := h.rest (s.setSeg r g)
  exact .of_mem (hplatform.trans (State.setSeg_platform ..)) (hfree.trans (State.setSeg_freeIndex ..))
    (hmem.trans (State.setSeg_mem ..))

end

theorem loadSegReal_eq (s : State) (r : SegReg) (v : Word) :
    loadSegReal s r v = s.setSeg r { val := v, cache := (s.seg r).cache.atParagraph v } := by
  rw [loadSegReal, SegCache.atParagraph, paragraph_base]

theorem loadSeg_real {s : State} (r : SegReg) (v : Word) (hp : s.prot = false) :
    loadSeg s r v = .ok (s.setSeg r { val := v, cache := (s.seg r).cache.atParagraph v }) := by
  rw [loadSeg, hp, if_neg Bool.false_ne_true, loadSegReal_eq]

/-- Settles O15: in real mode the load of the register raises nothing. -/
theorem realSegmentLoad : Obligations.RealSegmentLoad := by
  unfold Obligations.RealSegmentLoad
  exact fun s i r v f h hp => ⟨h.exec_ok (loadSeg_real r v hp), h.sameBytes⟩

/-- The selectors that select nothing are 0000H to 0003H. -/
theorem isNullSelector_of_le {v : Word} (h : v ≤ 3#16) : isNullSelector v = true := by
  have hv : v.toNat ≤ 3 := h
  refine decide_eq_true (BitVec.eq_of_toNat_eq ?_)
  rw [BitVec.extractLsb'_toNat, Nat.shiftRight_eq_div_pow]
  simp only [BitVec.toNat_ofNat]
  omega

theorem loadSeg_data {s : State} {r : SegReg} (v : Word) (hp : s.prot = true) (hr : r ≠ .ss) :
    loadSeg s r v = loadDataSegment s r v := by
  rw [loadSeg, hp, if_pos rfl, if_neg hr]

theorem loadSeg_stack {s : State} (v : Word) (hp : s.prot = true) :
    loadSeg s .ss v = loadStackSegment s .loadedSegment v s.cpl := by
  rw [loadSeg, hp, if_pos rfl, if_pos rfl]

theorem loadSeg_null {s : State} {r : SegReg} {v : Word} (hp : s.prot = true) (hr : r ≠ .ss) (hn : isNullSelector v = true) :
    loadSeg s r v = .ok (s.setSeg r { val := v, cache := { (s.seg r).cache with valid := false } }) := by
  rw [loadSeg_data v hp hr, loadDataSegment, if_pos hn]

/-- Settles O16: the entry is marked invalid, and `lin` tests that first. -/
theorem nullSelectorLoad : Obligations.NullSelectorLoad := by
  unfold Obligations.NullSelectorLoad
  intro s i r v f h hp hr hv
  have hss : r ≠ .ss := by rcases hr with rfl | rfl <;> decide
  have hx := h.exec_ok (loadSeg_null hp hss (isNullSelector_of_le hv))
  have hs := h.sameBytes (g := { val := v, cache := { (s.seg r).cache with valid := false } })
  obtain ⟨-, -, -, hseg⟩ := h.rest (s.setSeg r { val := v, cache := { (s.seg r).cache with valid := false } })
  rw [State.holdOff_of_ne _ hss] at hx hs hseg
  refine ⟨_, rfl, hx, hs, fun off n k => ?_⟩
  rw [lin_invalid off n k (by rw [hseg r, State.setSeg_seg, if_pos rfl]), if_neg hss]
  rfl

/-! ### The checks of protected mode -/

section
variable {s : State} {r : SegReg} {v : Word} {d : Descriptor} {e : Stop}

/-- A load of DS or ES whose selector is not null is decided by the descriptor. -/
theorem loadSeg_dataDescriptor (hp : s.prot = true) (hr : r ≠ .ss) (hn : isNullSelector v = false)
    (hd : readDescriptor s .loadedSegment v e = .ok d) :
    loadSeg s r v = (dataSegmentChecks d v s.cpl >>= fun _ => pure (s.loadFrom r v d d.dpl)) := by
  have hd' := readDescriptor_any (.trap .generalProtection (some (selectorCode v))) hd
  have hn' : ¬isNullSelector v = true := by simp [hn]
  rw [loadSeg_data v hp hr, loadDataSegment, if_neg hn', hd', Try.bind_ok]

/-- A load of SS whose selector is not null is decided by the descriptor. -/
theorem loadSeg_stackDescriptor (hp : s.prot = true) (hn : isNullSelector v = false)
    (hd : readDescriptor s .loadedSegment v e = .ok d) :
    loadSeg s .ss v = (stackSegmentChecks d v s.cpl >>= fun _ => pure (s.loadFrom .ss v d d.dpl)) := by
  have hd' := readDescriptor_any (.trap .generalProtection (some (selectorCode v))) hd
  rw [loadSeg_stack v hp, loadStackSegment, hn, Bool.not_false, require_true, Try.bind_ok, hd', Try.bind_ok]

/-- A selector outside its table ends the read of its descriptor. -/
theorem readDescriptor_outsideTable {p : Purpose} {sel : Word} (h : s.outsideTable sel = true) :
    readDescriptor s p sel e = .error e := by
  unfold State.outsideTable at h
  unfold readDescriptor
  split at h
  · rename_i hl
    have hb : (s.ldtr.valid && decide (s.entryOffset sel + 7 ≤ s.ldtr.limit.toNat)) = false := by
      rw [Bool.and_eq_false_iff]
      rcases (Bool.or_eq_true _ _).mp h with hv | hb
      · exact .inl (by simpa using hv)
      · exact .inr (by simpa using hb)
    rw [if_pos hl, hb, require_false, Try.bind_error]
  · rename_i hl
    have hb : decide (s.entryOffset sel + 7 ≤ s.gdtr.limit.toNat) = false := by
      simpa using h
    rw [if_neg hl, hb, require_false, Try.bind_error]

/-- Whatever register but CS is loaded, a selector outside its table is exception 13. -/
theorem loadSeg_outsideTable (hp : s.prot = true) (hn : isNullSelector v = false) (h : s.outsideTable v = true) :
    loadSeg s r v = .error (.trap .generalProtection (some (selectorCode v))) := by
  by_cases hr : r = .ss
  · subst hr
    rw [loadSeg_stack v hp, loadStackSegment, hn, Bool.not_false, require_true, Try.bind_ok, readDescriptor_outsideTable h,
      Try.bind_error]
  · have hn' : ¬isNullSelector v = true := by simp [hn]
    rw [loadSeg_data v hp hr, loadDataSegment, if_neg hn', readDescriptor_outsideTable h, Try.bind_error]

/-- The checks of DS and ES but the last fail with exception 13, whichever of them fails. -/
theorem dataSegmentChecks_fault {cpl : BitVec 2} (h : d.dpl < cpl ∨ (d.isData = false ∧ d.isReadableCode = false) ∨
    (d.isConforming = false ∧ d.dpl < rpl v)) :
    dataSegmentChecks d v cpl = .error (.trap .generalProtection (some (selectorCode v))) := by
  unfold dataSegmentChecks
  by_cases h1 : d.dpl < cpl
  · simp [h1]
  · by_cases h2 : (d.isData || d.isReadableCode) = true
    · have h2' : ¬(d.isData = false ∧ d.isReadableCode = false) := by simpa [← Bool.or_eq_false_iff] using h2
      obtain ⟨hc, hl⟩ := (h.resolve_left h1).resolve_left h2'
      simp [h1, h2, hc, hl]
    · simp [h1, h2]

/-- The last check of DS and ES. -/
theorem dataSegmentChecks_absent {cpl : BitVec 2} (hl : cpl ≤ d.dpl) (ht : d.isData = true ∨ d.isReadableCode = true)
    (hc : d.isConforming = true ∨ rpl v ≤ d.dpl) (hP : d.present = false) :
    dataSegmentChecks d v cpl = .error (.trap .segmentNotPresent (some (selectorCode v))) := by
  have h1 : ¬d.dpl < cpl := BitVec.not_lt.mpr hl
  have hlevel : (!decide (d.dpl < cpl)) = true := by simpa using hl
  have htype : (d.isData || d.isReadableCode) = true := by simpa using ht
  have hrpl : (d.isConforming || !(decide (d.dpl < cpl) || decide (d.dpl < rpl v))) = true := by
    simpa [h1] using hc
  rw [dataSegmentChecks, hlevel, require_true, Try.bind_ok, htype, require_true, Try.bind_ok, hrpl, require_true, Try.bind_ok,
    hP, require_false]

theorem stackSegmentChecks_fault {level : BitVec 2} (h : rpl v ≠ level ∨ d.isWritableData = false ∨ d.dpl ≠ level) :
    stackSegmentChecks d v level = .error (.trap .generalProtection (some (selectorCode v))) := by
  have hb : (decide (rpl v = level) && d.isWritableData && decide (d.dpl = level)) = false := by
    rwa [Bool.and_eq_false_iff, Bool.and_eq_false_iff, decide_eq_false_iff_not, decide_eq_false_iff_not, or_assoc]
  rw [stackSegmentChecks, hb, require_false, Try.bind_error]

theorem stackSegmentChecks_absent {level : BitVec 2} (hr : rpl v = level) (hw : d.isWritableData = true) (hl : d.dpl = level)
    (hP : d.present = false) : stackSegmentChecks d v level = .error (.trap .stackFault (some (selectorCode v))) := by
  simp [stackSegmentChecks, hr, hw, hl, hP]

end

/-! ### The default format -/

/-- The access rights byte of the default format is that of 60_exceptions.md R301. -/
theorem normalRights_default (b : Byte) : normalRights DescFormat.default.bits b = b := by
  revert b
  decide

theorem isLocal_default (v : Word) : isLocal DescFormat.default v = v.getLsbD 2 := rfl

theorem selectorIndex_default (v : Word) : selectorIndex DescFormat.default v = v.toNat / 8 := by
  show v.toNat / 4 / 2 ^ 1 * 2 ^ 0 + v.toNat / 4 % 2 ^ 0 = _
  omega

theorem State.entryOffset_default {s : State} (h : s.platform.format = DescFormat.default) (v : Word) :
    s.entryOffset v = v.toNat / 8 * 8 := by
  rw [State.entryOffset, h, selectorIndex_default]

theorem markAccessed_default (b : Byte) : markAccessed DescFormat.default.bits b = b ||| 1#8 := rfl

/-- The base of a descriptor, a word and a byte above it. -/
theorem State.baseFor_toNat (s : State) (p : Purpose) (a : Nat) :
    (s.baseFor p a).toNat = (s.wordFor p a).toNat + (s.byteFor p (a + 2)).toNat * 0x10000 := by
  have h0 := (s.byteFor p a).isLt
  have h1 := (s.byteFor p (a + 1)).isLt
  simp only [State.baseFor, State.wordFor, wordOf, BitVec.toNat_append]
  rw [← Nat.shiftLeft_add_eq_or_of_lt h0, ← Nat.shiftLeft_add_eq_or_of_lt h1, ← Nat.shiftLeft_add_eq_or_of_lt h0]
  simp only [Nat.shiftLeft_eq]
  omega

/-! ### The statements -/

/-- Settles O17: the checks pass, so the register is loaded from the descriptor. -/
theorem protectedSegmentLoad : Obligations.ProtectedSegmentLoad := by
  unfold Obligations.ProtectedSegmentLoad
  intro s i r v f d e h hp hn hd hP hstack hdata
  constructor
  · have hload : loadSeg s r v = .ok (s.loadFrom r v d d.dpl) := by
      by_cases hr : r = .ss
      · subst hr
        obtain ⟨hrpl, hw, hl⟩ := hstack rfl
        have hc : stackSegmentChecks d v s.cpl = .ok () := stackSegmentChecks_ok.mpr ⟨hrpl, hw, hl, hP⟩
        rw [loadSeg_stackDescriptor hp hn hd, hc, Try.bind_ok]
        rfl
      · obtain ⟨ht, hl, hrpl⟩ := hdata hr
        have hc : dataSegmentChecks d v s.cpl = .ok () :=
          dataSegmentChecks_ok.mpr ⟨hl, ht, hrpl.imp_right fun h => ⟨hl, h⟩, hP⟩
        rw [loadSeg_dataDescriptor hp hr hn hd, hc, Try.bind_ok]
        rfl
    obtain ⟨hmem, hplatform, hfree, hseg⟩ := h.rest (s.loadFrom r v d d.dpl)
    refine ⟨_, rfl, h.exec_ok hload, .of_mem ?_ ?_ ?_, ?_⟩
    · exact hplatform.trans (by simp)
    · exact hfree.trans (by simp)
    · exact hmem.trans (by simp [State.loadFrom])
    · refine (congrArg (fun g : Segment => g.cache.valid) (hseg r)).trans ?_
      rw [State.loadFrom, State.setSeg_seg, if_pos rfl]
      exact hP
  · intro hf a
    have hd' := readDescriptor_ok.mp hd
    rw [hf, isLocal_default, State.entryOffset_default hf] at hd'
    have hat : d = s.descriptorAt .loadedSegment a := by
      by_cases hl : v.getLsbD 2 = true
      · rw [if_pos hl] at hd'
        obtain ⟨-, -, -, hd'⟩ := hd'
        simpa only [a, if_pos hl] using hd'
      · rw [if_neg hl] at hd'
        obtain ⟨-, -, hd'⟩ := hd'
        simpa only [a, if_neg hl] using hd'
    rw [hat, State.descriptorAt, hf]
    dsimp only
    rw [normalRights_default, markAccessed_default]
    exact ⟨rfl, s.baseFor_toNat .loadedSegment (a + 2), rfl, rfl, rfl⟩

/-- Settles O18: first the operand, then the selector, then the descriptor; each check that fails ends the load as it says. -/
theorem segmentLoadFaults : Obligations.SegmentLoadFaults := by
  unfold Obligations.SegmentLoadFaults
  refine ⟨fun s r m e hr h => ?mov, fun s r i e hi h => ?pop, fun s r i dst m e hi => ⟨fun h => ?low, fun a ha h => ?high⟩,
    fun s i r v f h hp => ?checks⟩
  case mov => rw [exec_movSregRm16 hr, readRm_mem_error (z := size16) h, Try.bind_error, complete_error]
  case pop => rw [exec_popInstr hi, popSegment, h, Try.bind_error, complete_error]
  case low => rw [exec_farLoadInstr hi, loadFarPointer, h, Try.bind_error, complete_error]
  case high => rw [exec_farLoadInstr hi, loadFarPointer, ha, Try.bind_ok, h, Try.bind_error, complete_error]
  case checks =>
    intro ec gp ti
    have outside : isNullSelector v = false → s.outsideTable v = true → exec i s = gp := fun hn ho =>
      h.exec_error (loadSeg_outsideTable hp hn ho)
    refine ⟨fun hr hn => ?null, fun hn ht hl => outside hn ?gdt, fun hn ht hl => outside hn ?ldt,
      fun hn ht hv => outside hn ?invalid, fun hf => ?format, fun d e hn hd => ?descriptor⟩
    case null =>
      subst hr
      refine h.exec_error (e := protectionFault) ?_
      rw [loadSeg_stack v hp, loadStackSegment, hn, Bool.not_true, require_false, Try.bind_error]
    case gdt =>
      have ht' : isLocal s.platform.format v = false := ht
      simp [State.outsideTable, ht', hl]
    case ldt =>
      have ht' : isLocal s.platform.format v = true := ht
      simp [State.outsideTable, ht', hl]
    case invalid =>
      have ht' : isLocal s.platform.format v = true := ht
      simp [State.outsideTable, ht', hv]
    case format => exact ⟨by rw [← isLocal_default, ← hf], State.entryOffset_default hf v⟩
    case descriptor =>
      have data : ∀ {x}, r ≠ .ss → dataSegmentChecks d v s.cpl = .error x → exec i s = endWith s x := fun hr hx =>
        h.exec_error (by rw [loadSeg_dataDescriptor hp hr hn hd, hx, Try.bind_error])
      have stack : ∀ {x}, r = .ss → stackSegmentChecks d v s.cpl = .error x → exec i s = endWith s x := fun hr hx =>
        h.exec_error (by subst hr; rw [loadSeg_stackDescriptor hp hn hd, hx, Try.bind_error])
      exact ⟨fun hr hl => data hr (dataSegmentChecks_fault (.inl hl)),
        fun hr _ h1 h2 => data hr (dataSegmentChecks_fault (.inr (.inl ⟨h1, h2⟩))),
        fun hr _ hc hl => data hr (dataSegmentChecks_fault (.inr (.inr ⟨hc, hl⟩))),
        fun hr ht hl hc hP => data hr (dataSegmentChecks_absent hl ht hc hP),
        fun hr hx => stack hr (stackSegmentChecks_fault hx),
        fun hr h1 h2 h3 hP => stack hr (stackSegmentChecks_absent h1 h2 h3 hP)⟩

end Sys2Proof.Machine
end

section
/-! PROOFS. LOADALL, IF and IOPL, the ports and the 80287 (41_loadall.md, 42_interrupt_and_flag_instructions.md section 4,
43_io_and_lock.md, 44_numeric_coprocessor.md). -/

namespace Sys2Proof.Machine

/-! ### LOADALL -/

theorem exec_loadall_privileged {s : State} (hp : s.prot = true) (hc : s.cpl ≠ 0#2) :
    exec .loadall s = takeException s .generalProtection (some 0#16) := by
  have hb : (!(s.prot && decide (s.cpl ≠ 0#2))) = false := by simp [hp, hc]
  rw [exec_loadall, execLoadall, hb, require_false, Try.bind_error]
  rfl

theorem exec_loadall_outside {s : State} (hp : s.prot = false ∨ s.cpl = 0#2) (hi : imageInside s.platform.loadall = false) :
    exec .loadall s = .refused .beyondPhysicalSpace := by
  rw [exec_loadall, execLoadall, loadall_permitted_iff.mpr hp, hi, require_true, Try.bind_ok, require_false, Try.bind_error]
  rfl

theorem afterLoadall_msw (s : State) : (afterLoadall s).msw = s.word s.platform.loadall.msw ||| (s.msw &&& 0x0001#16) := rfl

/-- PE, once 1, stays 1; the other bits of the MSW are the loaded ones (41_loadall.md R166). -/
theorem afterLoadall_prot_eq (s : State) :
    (afterLoadall s).prot = (s.prot || (s.word s.platform.loadall.msw).getLsbD 0) := by
  rw [State.prot, afterLoadall_msw, BitVec.getLsbD_or, BitVec.getLsbD_and, State.prot, Bool.or_comm]
  simp

theorem afterLoadall_msw_high (s : State) {k : Nat} (hk : 1 ≤ k) :
    (afterLoadall s).msw.getLsbD k = (s.word s.platform.loadall.msw).getLsbD k := by
  have hone : (0x0001#16).getLsbD k = false := by
    have h1 : (1#16).getLsbD k = decide (k = 0) := by simp [BitVec.getLsbD_one]
    rw [h1]
    exact decide_eq_false (by omega)
  rw [afterLoadall_msw, BitVec.getLsbD_or, BitVec.getLsbD_and, hone, Bool.and_false, Bool.or_false]

/-- Settles O21: the two checks, and the state that is loaded. -/
theorem loadallLoads : Obligations.LoadallLoads := by
  unfold Obligations.LoadallLoads
  refine ⟨fun s => ⟨exec_loadall_privileged, exec_loadall_outside, fun hp hi => ?loads⟩, normalRights_default, by decide, rfl⟩
  case loads =>
    exact ⟨afterLoadall s, exec_loadall_completes hp hi, rfl, rfl, rfl, afterLoadall_prot_eq s,
      fun _ hk => afterLoadall_msw_high s hk, rfl, rfl, rfl, rfl, rfl, rfl, rfl, rfl, rfl⟩

/-! ### IF, IOPL and the ports -/

/-- STI and CLI are one: the IOPL rule, then IF. -/
theorem complete_setIe {s : State} (b : Bool) (h : s.ioplViolated = false) :
    complete s (ioplCheck s >>= fun _ => pure (s.setIe b).advance) = .next (s.setIe b).ended := by
  have hc : ioplCheck s = .ok () := ioplCheck_ok.mpr h
  rw [hc]
  rfl

theorem complete_setIe_violated {s : State} (b : Bool) (h : s.ioplViolated = true) :
    complete s (ioplCheck s >>= fun _ => pure (s.setIe b).advance) = takeException s .generalProtection (some 0#16) := by
  rw [ioplCheck_violated h]
  rfl

/-- Settles O35: STI and CLI by the IOPL rule. -/
theorem interruptFlag : Obligations.InterruptFlag := by
  unfold Obligations.InterruptFlag
  refine fun s => ⟨fun h => ⟨complete_setIe true h, complete_setIe false h, fun hi => ?accepts, rfl, .of_mem rfl rfl rfl,
    .of_mem rfl rfl rfl⟩, fun h => ⟨complete_setIe_violated true h, complete_setIe_violated false h⟩, by decide, by decide⟩
  case accepts => exact State.accepts_of_not_intShadow (s := (s.setIe true).ended) hi

/-- Settles O36: each of these instructions makes the IOPL check first. -/
theorem ioplRule : Obligations.IoplRule := by
  unfold Obligations.IoplRule
  refine fun s => ⟨fun hp => ?real, fun hp hl => ?permitted, fun hp hl => ?violated⟩
  case real => rw [State.ioplViolated, hp, Bool.false_and]
  case permitted => rw [State.ioplViolated, hp, Bool.true_and, decide_eq_false (BitVec.not_lt.mpr hl)]
  case violated =>
    have hv : s.ioplViolated = true := by rw [State.ioplViolated, hp, Bool.true_and, decide_eq_true hl]
    exact ⟨fun op form => exec_portInstr_error (portCheck_violated _ _ hv), complete_setIe_violated true hv,
      complete_setIe_violated false hv, exec_lock_violated hv⟩

theorem PortOp.effect_sameBytes (op : PortOp) (s : State) (port : Word) : SameBytes s (op.effect s port).ended := by
  cases op <;> exact .of_mem rfl rfl rfl

/-- Settles O37: the two checks pass, and the effect is that of the access. -/
theorem portAccess : Obligations.PortAccess := by
  unfold Obligations.PortAccess
  intro s op form hi hp
  have hc : portCheck s (form.port s) op.count = .ok () := portCheck_ok.mpr ⟨hi, meetsReserved_eq_false.mpr hp⟩
  refine ⟨?_, op.effect_sameBytes s _⟩
  rw [exec_portInstr, hc]
  rfl

/-! ### The checks of the 80287 -/

section
variable {s : State}

theorem escapeAvailable_stop (h : (s.ts || s.em) = true) : escapeAvailable s = .error (.trap .extensionNotAvailable none) := by
  rw [escapeAvailable, h, Bool.not_true, require_false]

theorem escapeAvailable_pass (h : (s.ts || s.em) = false) : escapeAvailable s = .ok () := by
  rw [escapeAvailable, h, Bool.not_false, require_true]

theorem numericNotStuck_stop (h : s.numeric.busy = .stuck) : numericNotStuck s = .error (.refuse .coprocessorStuck) := by
  rw [numericNotStuck, decide_eq_true h, Bool.not_true, require_false]

theorem numericNotStuck_pass (h : s.numeric.busy ≠ .stuck) : numericNotStuck s = .ok () := by
  rw [numericNotStuck, decide_eq_false h, Bool.not_false, require_true]

theorem numericReady_stuck (h : s.numeric.busy = .stuck) : numericReady s = .error (.refuse .coprocessorStuck) := by
  rw [numericReady, numericNotStuck_stop h, Try.bind_error]

theorem numericReady_pending (h : s.numeric.busy ≠ .stuck) (he : s.numeric.errorPending = true) :
    numericReady s = .error (.trap .extensionError none) := by
  rw [numericReady, numericNotStuck_pass h, Try.bind_ok, he, Bool.not_true, require_false]

theorem numericReady_pass (h : s.numeric.busy ≠ .stuck) (he : s.numeric.errorPending = false) : numericReady s = .ok () := by
  rw [numericReady, numericNotStuck_pass h, Try.bind_ok, he, Bool.not_false, require_true]

end

/-! ### WAIT, FNINIT, FSETPM -/

theorem exec_wait (s : State) :
    exec .wait s = complete s (do
      require (!(s.ts && s.mp)) (.trap .extensionNotAvailable none)
      numericReady s
      pure { s with numeric := { s.numeric with busy := .idle } }.advance) := rfl

theorem exec_fninit (s : State) :
    exec .fninit s = complete s (do
      escapeAvailable s
      pure { s with numeric := numericInitialised s s.numeric.mode }.advance) := rfl

/-- Settles O40: the checks of WAIT in their order. -/
theorem waitForNumeric : Obligations.WaitForNumeric := by
  unfold Obligations.WaitForNumeric
  intro s
  have passed : (s.ts && s.mp) = false → exec .wait s = complete s (do
      numericReady s
      pure { s with numeric := { s.numeric with busy := .idle } }.advance) := by
    intro h
    rw [exec_wait, h, Bool.not_false, require_true, Try.bind_ok]
  refine ⟨fun h => ?unavailable, fun h hs => ?stuck, fun h hs he => ?pending, fun h hs he => ⟨?ready, .of_mem rfl rfl rfl⟩,
    by decide⟩
  case unavailable =>
    rw [exec_wait, h, Bool.not_true, require_false]
    rfl
  case stuck =>
    rw [passed h, numericReady_stuck hs]
    rfl
  case pending =>
    rw [passed h, numericReady_pending hs he]
    rfl
  case ready =>
    rw [passed h, numericReady_pass hs he]
    rfl

theorem numericInitialised_tags (s : State) (m : Mode) (k : Fin 8) : (numericInitialised s m).tags[k] = true := by
  simp [numericInitialised]

/-- Settles O41: FNINIT makes one check, FSETPM one more. -/
theorem numericControl : Obligations.NumericControl := by
  unfold Obligations.NumericControl
  refine fun s => ⟨fun h => ⟨?fninit, ?fsetpm⟩, fun h hs => ⟨?completes, .of_mem rfl rfl rfl⟩, fun h hs => ?stuck,
    fun h => ⟨State.ended { s with numeric := numericInitialised s s.numeric.mode }, ?initialises, rfl, .of_mem rfl rfl rfl, rfl,
      numericInitialised_tags s _, numericInitialised_top s _, numericInitialised_masks s _, rfl, rfl⟩⟩
  case fninit =>
    rw [exec_fninit, escapeAvailable_stop h]
    rfl
  case fsetpm =>
    rw [exec_fsetpm, escapeAvailable_stop h]
    rfl
  case completes =>
    rw [exec_fsetpm, escapeAvailable_pass h, numericNotStuck_pass hs]
    rfl
  case stuck =>
    rw [exec_fsetpm, escapeAvailable_pass h, numericNotStuck_stop hs]
    rfl
  case initialises =>
    rw [exec_fninit, escapeAvailable_pass h]
    rfl

/-! ### ESC -/

/-- What an ESC does after its checks of the 80287. -/
def escapeRest (op reg : BitVec 3) (o : Rm (BitVec 3)) (s : State) : Try State :=
  match o with
  | .reg _ => pure { s with numeric := numericAfter s false s.numeric.fdp }.advance
  | .mem m => do
    let a ← operandAddress s m 2 (escapeKind op reg)
    require (!(decide (physicalSize < (s.seg (s.operandSegment m)).cache.base.toNat + 0x10000) &&
      decide (physicalSize < a + 2 * escapeWords s op reg m))) (.refuse .beyondPhysicalSpace)
    pure (escapeTransfer s op reg m a).advance

theorem exec_esc (op reg : BitVec 3) (o : Rm (BitVec 3)) (s : State) :
    exec (.esc op reg o) s = complete s (escapeAvailable s >>= fun _ => numericReady s >>= fun _ => escapeRest op reg o s) := by
  cases o <;> rfl

section
variable {s : State} {op reg : BitVec 3}

/-- An ESC whose checks of the 80287 pass. -/
theorem exec_esc_ready (o : Rm (BitVec 3)) (ha : (s.ts || s.em) = false) (hs : s.numeric.busy ≠ .stuck)
    (he : s.numeric.errorPending = false) : exec (.esc op reg o) s = complete s (escapeRest op reg o s) := by
  rw [exec_esc, escapeAvailable_pass ha, Try.bind_ok, numericReady_pass hs he, Try.bind_ok]

/-- Settles O43: each check of ESC stops it before the next. -/
theorem escapeChecks : Obligations.EscapeChecks := by
  unfold Obligations.EscapeChecks
  refine fun s op reg o => ⟨fun h => ?unavailable, fun h hs => ?stuck, fun h hs he => ?pending, fun h hs he m e ho hm => ?operand⟩
  case unavailable =>
    rw [exec_esc, escapeAvailable_stop h]
    rfl
  case stuck =>
    rw [exec_esc, escapeAvailable_pass h, Try.bind_ok, numericReady_stuck hs]
    rfl
  case pending =>
    rw [exec_esc, escapeAvailable_pass h, Try.bind_ok, numericReady_pending hs he]
    rfl
  case operand =>
    rw [exec_esc_ready o h hs he, ho, escapeRest, hm, Try.bind_error, complete_error]

/-- The words counted are inside the limit. -/
theorem wordsInside_inLimit (c : SegCache) {off n j : Nat} (h : j < wordsInside c off n) : c.inLimit (off + 2 * j) 2 = true := by
  induction n generalizing off j with
  | zero => exact absurd h (Nat.not_lt_zero j)
  | succ n ih =>
    unfold wordsInside at h
    split at h
    · rename_i hl
      cases j with
      | zero => exact hl
      | succ j =>
        have hj := ih (off := off + 2) (Nat.lt_of_succ_lt_succ h)
        rwa [show off + 2 + 2 * j = off + 2 * (j + 1) by omega] at hj
    · exact absurd h (Nat.not_lt_zero j)

/-- The word after those counted is not inside the limit, if there is one. -/
theorem wordsInside_not_inLimit (c : SegCache) {off n : Nat} (h : wordsInside c off n < n) :
    c.inLimit (off + 2 * wordsInside c off n) 2 = false := by
  induction n generalizing off with
  | zero => exact absurd h (Nat.lt_irrefl 0)
  | succ n ih =>
    unfold wordsInside at h ⊢
    split at h
    · rename_i hl
      have hn := ih (off := off + 2) (Nat.lt_of_succ_lt_succ h)
      rw [if_pos hl]
      rwa [show off + 2 + 2 * wordsInside c (off + 2) n = off + 2 * (wordsInside c (off + 2) n + 1) by omega] at hn
    · rename_i hl
      rw [if_neg hl]
      simpa using hl

theorem escapeKind_write : escapeKind op reg = .write ↔ Config.numericStores op reg = true := by
  unfold escapeKind
  split <;> simp [*]

/-- The transfer changes the 80287, exception 9 and memory, and nothing else. -/
theorem escapeTransfer_same (s : State) (op reg : BitVec 3) (m : MemOperand) (a : Nat) :
    { escapeTransfer s op reg m a with
      numeric := s.numeric, mem := s.mem, superseded := s.superseded, exc9Pending := s.exc9Pending } = s := by
  unfold escapeTransfer
  dsimp only
  split
  · have h := storeNumericWords_same s a 0 (escapeWords s op reg m)
    exact congrArg (fun u : State => { u with numeric := s.numeric, exc9Pending := s.exc9Pending }) h
  · rfl

/-- An ESC that stores changes no byte outside the words transferred. -/
theorem escapeTransfer_byte_other {m : MemOperand} {a b : Nat} (hk : escapeKind op reg = .write)
    (hb : b < a ∨ a + 2 * escapeWords s op reg m ≤ b) : (escapeTransfer s op reg m a).ended.byte b = s.byte b := by
  rw [← storeNumericWords_byte_other s (j := 0) hb]
  refine State.byte_congr ?_ ?_ ?_ <;>
    · simp only [escapeTransfer, if_pos (escapeKind_write.mp hk)]
      rfl

/-- An ESC that does not store changes no byte. -/
theorem escapeTransfer_sameBytes {m : MemOperand} {a : Nat} (hk : escapeKind op reg ≠ .write) :
    SameBytes s (escapeTransfer s op reg m a).ended := by
  have hs : ¬Config.numericStores op reg = true := mt escapeKind_write.mpr hk
  refine .of_mem ?_ ?_ ?_ <;>
    · simp only [escapeTransfer, if_neg hs]
      rfl

theorem exec_esc_mem {m : MemOperand} {a : Nat} (ha : (s.ts || s.em) = false) (hs : s.numeric.busy ≠ .stuck)
    (he : s.numeric.errorPending = false) (hm : operandAddress s m 2 (escapeKind op reg) = .ok a)
    (hb : (s.seg (s.operandSegment m)).cache.base.toNat + 0x10000 ≤ physicalSize) :
    exec (.esc op reg (.mem m)) s = .next (escapeTransfer s op reg m a).ended := by
  have hphysical : (!(decide (physicalSize < (s.seg (s.operandSegment m)).cache.base.toNat + 0x10000) &&
      decide (physicalSize < a + 2 * escapeWords s op reg m))) = true := by
    rw [decide_eq_false (Nat.not_lt.mpr hb)]
    rfl
  rw [exec_esc_ready _ ha hs he, escapeRest, hm, Try.bind_ok, hphysical, require_true, Try.bind_ok]
  rfl

end

/-- Settles O42: the words transferred are those counted by `escapeWords`. -/
theorem escapeCompletes : Obligations.EscapeCompletes := by
  unfold Obligations.EscapeCompletes
  intro s op reg ha hs he
  refine ⟨fun rm => ⟨State.ended { s with numeric := numericAfter s false s.numeric.fdp }, ?register, rfl, .of_mem rfl rfl rfl,
    rfl, rfl, rfl, rfl⟩, fun m a hm hb => ?memory⟩
  case register =>
    rw [exec_esc_ready _ ha hs he]
    rfl
  case memory =>
    intro n off c inside
    have hinside : ∀ j, c.inLimit (off + 2 * j) 2 = true ↔ inside j := fun j => SegCache.inLimit_iff
    refine ⟨escapeWords s op reg m, (escapeTransfer s op reg m a).ended, wordsInside_le _ _ _,
      fun j hj => (hinside j).mp (wordsInside_inLimit c hj), fun hlt hin => ?next, exec_esc_mem ha hs he hm hb, ?same,
      rfl, rfl, rfl, ?busy, rfl, ?bytes⟩
    case next =>
      have hout : c.inLimit (off + 2 * escapeWords s op reg m) 2 = false := wordsInside_not_inLimit c hlt
      rw [(hinside _).mpr hin] at hout
      cases hout
    case same => exact congrArg State.ended (escapeTransfer_same s op reg m a)
    case busy =>
      show (if escapeOverruns s op reg m then Busy.stuck else .busy) = _
      simp only [escapeOverruns, decide_eq_true_eq]
      rfl
    case bytes =>
      by_cases hk : escapeKind op reg = .write
      · rw [if_pos hk]
        exact fun b hb => escapeTransfer_byte_other hk hb
      · rw [if_neg hk]
        exact escapeTransfer_sameBytes hk

end Sys2Proof.Machine
end

section
/-! PROOFS. The integer instructions carried out (45_integer_discrepancies.md): jumps, shifts and rotates, divides, XCHG, ADC and
SBB, with their operands read, written and refused. -/

namespace Sys2Proof.Machine

/-! ### Jumps -/

/-- The target of a short jump, as an integer sum. -/
theorem jumpTarget_signExtend (ip1 : Nat) (rel : Byte) :
    BitVec.ofNat 16 ip1 + rel.signExtend 16 = BitVec.ofInt 16 ((ip1 : Int) + rel.toInt) := by
  rw [BitVec.ofInt_add, BitVec.ofInt_natCast, BitVec.signExtend]

theorem complete_jumpNear {s : State} {rel t : Word} (ht : BitVec.ofNat 16 s.ip1 + rel = t) (h : t ≤ s.cs.cache.limit) :
    complete s (jumpNear s rel) = .next (s.jump t).finish := by
  subst ht
  rw [jumpNear_ok.mpr ⟨h, rfl⟩, complete_ok]

theorem complete_jumpNear_outside {s : State} {rel t : Word} (ht : BitVec.ofNat 16 s.ip1 + rel = t)
    (h : s.cs.cache.limit < t) : complete s (jumpNear s rel) = takeException s .generalProtection (some 0#16) := by
  subst ht
  rw [jumpNear, decide_eq_false (BitVec.not_le.mpr h), require_false, Try.bind_error]
  rfl

theorem exec_jmpFar (off seg : Word) (s : State) :
    exec (.jmpFar off seg) s = complete s (do
      require (!s.prot) (.refuse .protectedFarTransfer)
      require (decide (off ≤ s.cs.cache.limit)) protectionFault
      pure ((loadSegReal s .cs seg).jump off)) := rfl

/-- Settles O46: the target is compared with the CS limit. -/
theorem jumps : Obligations.Jumps := by
  unfold Obligations.Jumps
  refine fun s => ⟨fun t => ⟨rfl, .of_mem rfl rfl rfl⟩,
    fun rel => ⟨complete_jumpNear (jumpTarget_signExtend ..), complete_jumpNear_outside (jumpTarget_signExtend ..)⟩,
    fun rel => ⟨complete_jumpNear ?target, complete_jumpNear_outside ?target⟩,
    fun off seg => ⟨fun hp hl => ⟨?far, .of_mem rfl rfl rfl⟩, fun hp hl => ?outside, fun hp => ?protect⟩⟩
  case target => rw [BitVec.ofNat_add, BitVec.ofNat_toNat, BitVec.setWidth_eq]
  case far =>
    rw [exec_jmpFar, hp, decide_eq_true hl, Bool.not_false, require_true, Try.bind_ok, require_true, Try.bind_ok, loadSegReal_eq]
    rfl
  case outside =>
    rw [exec_jmpFar, hp, decide_eq_false (BitVec.not_le.mpr hl), Bool.not_false, require_true, Try.bind_ok, require_false,
      Try.bind_error]
    rfl
  case protect =>
    rw [exec_jmpFar, hp, Bool.not_true, require_false, Try.bind_error]
    rfl

/-! ### Read-modify-write of an operand of either size -/

section
variable {α : Type} {s' : State}

theorem notRestartable_refuse (r : Refusal) : (notRestartable s' (.error (.refuse r)) : Try α) = .error (.refuse r) := rfl

theorem notRestartable_protectionFault :
    (notRestartable s' (.error protectionFault) : Try α) = .error (.trapIn s' .generalProtection (some 0#16)) := rfl

end

section
variable {ρ : Type} {w : Nat} {z : OpSize ρ w} {s : State} {m : MemOperand} {e : Stop} {a b : Nat} {q : Refusal}

theorem setReg_flags_sameBytes (z : OpSize ρ w) (s : State) (r : ρ) (v : BitVec w) (f : Flags) :
    SameBytes s (State.ended { z.setReg s r v with flags := f }) := .of_mem rfl rfl rfl

theorem setByte_flags_wrote (s : State) (a : Nat) (v : Byte) (f : Flags) :
    WroteByte s (State.ended { s.setByte a v with flags := f }) a v :=
  .of_mem (State.setByte_platform ..) (State.setByte_freeIndex ..) rfl

theorem setWord_flags_wrote (s : State) (a : Nat) (v : Word) (f : Flags) :
    WroteWord s (State.ended { s.setWord a v with flags := f }) a v :=
  .of_mem (State.setWord_platform ..) (State.setWord_freeIndex ..) rfl

/-! ### Shifts and rotates -/

section
variable {op : ShiftOp} {count : Byte}

theorem complete_shiftRm_reg_zero (r : ρ) (h0 : shiftCount count = 0) :
    complete s (shiftRm z op s (.reg r) count) = .next s.ended := by
  rw [shiftRm_reg, if_pos h0]
  rfl

theorem complete_shiftRm_reg (r : ρ) (h0 : shiftCount count ≠ 0) :
    complete s (shiftRm z op s (.reg r) count) =
      .next (State.ended { z.setReg s r (shiftTimes op (shiftCount count) (z.get s.regs r) s.flags.cf).1 with
        flags := shiftFlags op s.flags s.freeIndex (shiftCount count) (z.get s.regs r) }) := by
  rw [shiftRm_reg, if_neg h0]
  rfl

theorem complete_shiftRm_mem_zero (h0 : shiftCount count = 0) (hr : operandAddress s m z.bytes .read = .ok a)
    (hw : operandAddress s m z.bytes .write = .ok b) : complete s (shiftRm z op s (.mem m) count) = .next s.ended := by
  rw [shiftRm_mem_ok.mpr ⟨a, b, hr, hw, rfl⟩, if_pos h0]
  rfl

theorem complete_shiftRm_mem (h0 : shiftCount count ≠ 0) (hr : operandAddress s m z.bytes .read = .ok a)
    (hw : operandAddress s m z.bytes .write = .ok a) :
    complete s (shiftRm z op s (.mem m) count) =
      .next (State.ended { z.store s a (shiftTimes op (shiftCount count) (z.load s a) s.flags.cf).1 with
        flags := shiftFlags op s.flags s.freeIndex (shiftCount count) (z.load s a) }) := by
  rw [shiftRm_mem_ok.mpr ⟨a, a, hr, hw, rfl⟩, if_neg h0]
  rfl

theorem complete_shiftRm_unreadable (h : operandAddress s m z.bytes .read = .error e) :
    complete s (shiftRm z op s (.mem m) count) = endWith s e := by
  rw [shiftRm, h, Try.bind_error, complete_error]

theorem complete_shiftRm_refused (hr : operandAddress s m z.bytes .read = .ok a)
    (hw : operandAddress s m z.bytes .write = .error (.refuse q)) :
    complete s (shiftRm z op s (.mem m) count) = .refused q := by
  by_cases h0 : shiftCount count = 0
  · rw [shiftRm_mem_zero h0, hr, Try.bind_ok, hw]
    rfl
  · rw [shiftRm_mem_steps h0, hr, Try.bind_ok, hw, notRestartable_refuse]
    rfl

/-- A shift whose write check alone fails takes the exception in its own state at the trap. -/
theorem complete_shiftRm_protected (h0 : shiftCount count ≠ 0) (hr : operandAddress s m z.bytes .read = .ok a)
    (hw : operandAddress s m z.bytes .write = .error protectionFault) :
    complete s (shiftRm z op s (.mem m) count) = takeException (shiftTrapState op s) .generalProtection (some 0#16) := by
  rw [shiftRm_mem_steps h0, hr, Try.bind_ok, hw, notRestartable_protectionFault]
  rfl

theorem complete_shiftRm_zero_protected (h0 : shiftCount count = 0) (hr : operandAddress s m z.bytes .read = .ok a)
    (hw : operandAddress s m z.bytes .write = .error protectionFault) :
    complete s (shiftRm z op s (.mem m) count) = .refused .zeroCountWriteProtected := by
  rw [shiftRm_mem_zero h0, hr, Try.bind_ok, hw]
  rfl

end

/-! ### XCHG -/

section
variable {r : ρ}

theorem complete_exchange_mem (hr : operandAddress s m z.bytes .read = .ok a) (hw : operandAddress s m z.bytes .write = .ok a) :
    complete s (exchange z s (.mem m) r) = .next (z.setReg (z.store s a (z.get s.regs r)) r (z.load s a)).ended := by
  rw [exchange_mem_ok.mpr ⟨a, a, hr, hw, rfl⟩]
  rfl

theorem complete_exchange_unreadable (h : operandAddress s m z.bytes .read = .error e) :
    complete s (exchange z s (.mem m) r) = endWith s e := by
  rw [exchange, h, Try.bind_error, complete_error]

theorem complete_exchange_refused (hr : operandAddress s m z.bytes .read = .ok a)
    (hw : operandAddress s m z.bytes .write = .error (.refuse q)) :
    complete s (exchange z s (.mem m) r) = .refused q := by
  rw [exchange, hr, Try.bind_ok, hw, notRestartable_refuse]
  rfl

theorem complete_exchange_protected (hr : operandAddress s m z.bytes .read = .ok a)
    (hw : operandAddress s m z.bytes .write = .error protectionFault) :
    complete s (exchange z s (.mem m) r) =
      takeException (z.setReg s r (z.undefined s.freeIndex)) .generalProtection (some 0#16) := by
  rw [exchange, hr, Try.bind_ok, hw, notRestartable_protectionFault]
  rfl

end

/-! ### ADC and SBB -/

section
variable {op : CarryOp} {v : BitVec w}

theorem complete_carryRm_mem (hr : operandAddress s m z.bytes .read = .ok a) (hw : operandAddress s m z.bytes .write = .ok a) :
    complete s (carryRm z op s (.mem m) v) =
      .next (State.ended { z.store s a (op.result (z.load s a) v s.flags.cf) with
        flags := op.flags s.flags (z.load s a) v }) := by
  rw [carryRm_mem_ok.mpr ⟨a, a, hr, hw, rfl⟩]
  rfl

theorem complete_carryRm_unreadable (h : operandAddress s m z.bytes .read = .error e) :
    complete s (carryRm z op s (.mem m) v) = endWith s e := by
  rw [carryRm, h, Try.bind_error, complete_error]

theorem complete_carryRm_refused (hr : operandAddress s m z.bytes .read = .ok a)
    (hw : operandAddress s m z.bytes .write = .error (.refuse q)) :
    complete s (carryRm z op s (.mem m) v) = .refused q := by
  rw [carryRm, hr, Try.bind_ok, hw, notRestartable_refuse]
  rfl

theorem complete_carryRm_protected (hr : operandAddress s m z.bytes .read = .ok a)
    (hw : operandAddress s m z.bytes .write = .error protectionFault) :
    complete s (carryRm z op s (.mem m) v) =
      takeException { s with flags := s.flags.undefinedSix s.freeIndex } .generalProtection (some 0#16) := by
  rw [carryRm, hr, Try.bind_ok, hw, notRestartable_protectionFault]
  rfl

end

/-! ### Divides -/

/-- A divide whose quotient is in range. -/
theorem divide_inRange {src : Rm ρ} {d : BitVec w} {inRange : BitVec w → Bool} {result : BitVec w → Regs}
    (hd : z.readRm s src = .ok d) (h : inRange d = true) :
    complete s (z.readRm s src >>= fun d => divideEnd s (inRange d) (result d)) =
      .next (State.ended { s with regs := result d, flags := s.flags.undefinedSix s.freeIndex }) := by
  rw [hd, Try.bind_ok, divideEnd_ok.mpr ⟨h, rfl⟩]
  rfl

/-- An instruction that reads its operand first ends as the access does. -/
theorem complete_readRm_unreadable {f : BitVec w → Try State} (h : operandAddress s m z.bytes .read = .error e) :
    complete s (z.readRm s (.mem m) >>= f) = endWith s e := by
  rw [readRm_mem_error h, Try.bind_error, complete_error]

end

/-! ### The instructions as these operations -/

theorem exec_shiftInstr8 (op : ShiftOp) (form : ShiftForm) (dst : Rm Reg8) (s : State) :
    exec (shiftInstr8 op form dst) s = complete s (shiftRm size8 op s dst (form.count s)) := by
  cases op with
  | rol | ror | rcl | rcr | shl | shr | sar => cases form <;> rfl

theorem exec_shiftInstr16 (op : ShiftOp) (form : ShiftForm) (dst : Rm Reg16) (s : State) :
    exec (shiftInstr16 op form dst) s = complete s (shiftRm size16 op s dst (form.count s)) := by
  cases op with
  | rol | ror | rcl | rcr | shl | shr | sar => cases form <;> rfl

theorem exec_carryInstr8 (op : CarryOp) (form : CarryForm8) (s : State) :
    exec (carryInstr8 op form) s = complete s (form.source s >>= fun b => carryRm size8 op s form.dst b) := by
  cases op with
  | adc | sbb => cases form <;> rfl

theorem exec_carryInstr16 (op : CarryOp) (form : CarryForm16) (s : State) :
    exec (carryInstr16 op form) s = complete s (form.source s >>= fun b => carryRm size16 op s form.dst b) := by
  cases op with
  | adc | sbb => cases form <;> rfl

/-! ### The statements on shifts and XCHG -/

/-- The count is masked to 5 bits. -/
theorem shiftCount_eq_and (count : Byte) : shiftCount count = (count &&& 0x1F#8).toNat := by
  rw [BitVec.toNat_and]
  exact (Nat.and_two_pow_sub_one_eq_mod count.toNat 5).symm

/-- Settles O49: the 42 instructions are `shiftRm` of either size. -/
theorem shifts : Obligations.Shifts := by
  unfold Obligations.Shifts
  intro s op form n
  refine ⟨shiftCount_eq_and _, fun m e => ⟨fun h => ?unreadable8, fun h => ?unreadable16⟩,
    fun m a r => ⟨fun hr hw => ?refused8, fun hr hw => ?refused16⟩,
    fun h0 => ⟨fun r => ?zero8, fun r => ?zero16, fun m a b hr hw => ?zeroMem8, fun m a b hr hw => ?zeroMem16, s.ended_sameBytes⟩,
    fun h0 => ⟨fun r => ⟨_, ?reg8, setReg_flags_sameBytes _ _ _ _ _, rfl⟩,
      fun r => ⟨_, ?reg16, setReg_flags_sameBytes _ _ _ _ _, rfl⟩,
      fun m a hr hw => ⟨_, ?mem8, setByte_flags_wrote .., rfl⟩, fun m a hr hw => ⟨_, ?mem16, setWord_flags_wrote .., rfl⟩⟩⟩
  case unreadable8 => exact (exec_shiftInstr8 ..).trans (complete_shiftRm_unreadable (z := size8) h)
  case unreadable16 => exact (exec_shiftInstr16 ..).trans (complete_shiftRm_unreadable (z := size16) h)
  case refused8 => exact (exec_shiftInstr8 ..).trans (complete_shiftRm_refused (z := size8) hr hw)
  case refused16 => exact (exec_shiftInstr16 ..).trans (complete_shiftRm_refused (z := size16) hr hw)
  case zero8 => exact (exec_shiftInstr8 ..).trans (complete_shiftRm_reg_zero r h0)
  case zero16 => exact (exec_shiftInstr16 ..).trans (complete_shiftRm_reg_zero r h0)
  case zeroMem8 => exact (exec_shiftInstr8 ..).trans (complete_shiftRm_mem_zero (z := size8) h0 hr hw)
  case zeroMem16 => exact (exec_shiftInstr16 ..).trans (complete_shiftRm_mem_zero (z := size16) h0 hr hw)
  case reg8 => exact (exec_shiftInstr8 ..).trans (complete_shiftRm_reg r h0)
  case reg16 => exact (exec_shiftInstr16 ..).trans (complete_shiftRm_reg r h0)
  case mem8 => exact (exec_shiftInstr8 ..).trans (complete_shiftRm_mem (z := size8) h0 hr hw)
  case mem16 => exact (exec_shiftInstr16 ..).trans (complete_shiftRm_mem (z := size16) h0 hr hw)

/-- A write of a byte half leaves the registers that have none. -/
theorem Regs.get16_set8_index (r : Regs) (i : Reg8) (v : Byte) {q : Reg16} (hq : q ∈ [Reg16.sp, .bp, .si, .di]) :
    (r.set8 i v).get16 q = r.get16 q := by
  simp only [List.mem_cons, List.not_mem_nil, or_false] at hq
  rcases hq with rfl | rfl | rfl | rfl <;> cases i <;> rfl

/-- Settles O53: the operand that is overwritten first is the one read first. -/
theorem exchange_holds : Obligations.Exchange := by
  unfold Obligations.Exchange
  refine ⟨fun s m r r' e => ⟨complete_exchange_unreadable (z := size8), complete_exchange_unreadable (z := size16)⟩,
    fun s m r r' a q => ⟨complete_exchange_refused (z := size8), complete_exchange_refused (z := size16)⟩,
    fun s d r => ⟨_, rfl, .of_mem rfl rfl rfl, rfl, rfl, ?left8, ?right8, fun q hq => ?index, fun q hd hr => ?other8⟩,
    fun s d r i hi => ⟨(size16.setReg (size16.setReg s d (s.regs.get16 r)) r (s.regs.get16 d)).ended, ?exec16,
      .of_mem rfl rfl rfl, rfl, ?left16, ?right16, fun q hd hr => ?other16⟩,
    fun s m r a hr hw => ⟨_, complete_exchange_mem (z := size8) hr hw, ?wrote8, rfl⟩,
    fun s m r a hr hw => ⟨_, complete_exchange_mem (z := size16) hr hw, ?wrote16, rfl⟩⟩
  case left8 =>
    show ((s.regs.set8 d (s.regs.get8 r)).set8 r (s.regs.get8 d)).get8 d = _
    rw [Regs.get8_set8, Regs.get8_set8, if_pos rfl]
    split
    · rename_i h
      rw [h]
    · rfl
  case right8 =>
    show ((s.regs.set8 d (s.regs.get8 r)).set8 r (s.regs.get8 d)).get8 r = _
    rw [Regs.get8_set8, if_pos rfl]
  case index =>
    show ((s.regs.set8 d (s.regs.get8 r)).set8 r (s.regs.get8 d)).get16 q = _
    rw [Regs.get16_set8_index _ _ _ hq, Regs.get16_set8_index _ _ _ hq]
  case other8 =>
    show ((s.regs.set8 d (s.regs.get8 r)).set8 r (s.regs.get8 d)).get8 q = _
    rw [Regs.get8_set8, if_neg hr, Regs.get8_set8, if_neg hd]
  case exec16 =>
    rcases hi with rfl | ⟨rfl, rfl⟩
    · rfl
    · rfl
  case left16 =>
    show ((s.regs.set16 d (s.regs.get16 r)).set16 r (s.regs.get16 d)).get16 d = _
    rw [Regs.get16_set16, Regs.get16_set16, if_pos rfl]
    split
    · rename_i h
      rw [h]
    · rfl
  case right16 =>
    show ((s.regs.set16 d (s.regs.get16 r)).set16 r (s.regs.get16 d)).get16 r = _
    rw [Regs.get16_set16, if_pos rfl]
  case other16 =>
    show ((s.regs.set16 d (s.regs.get16 r)).set16 r (s.regs.get16 d)).get16 q = _
    rw [Regs.get16_set16, if_neg hr, Regs.get16_set16, if_neg hd]
  case wrote8 => exact .of_mem (State.setByte_platform ..) (State.setByte_freeIndex ..) rfl
  case wrote16 => exact .of_mem (State.setWord_platform ..) (State.setWord_freeIndex ..) rfl

/-! ### The statement on divides -/

theorem toInt_ne_zero {w : Nat} {d : BitVec w} (h : d ≠ 0#w) : d.toInt ≠ 0 := fun he =>
  h (BitVec.eq_of_toInt_eq (by rw [he, BitVec.toInt_zero]))

/-- The range check of DIV passes. -/
theorem unsignedQuotient_inRange {w n greatest : Nat} {d : BitVec w} (h : d ≠ 0#w) (hq : n / d.toNat ≤ greatest) :
    (decide (d.toNat ≠ 0) && decide (n / d.toNat ≤ greatest)) = true := by
  have hd : d.toNat ≠ 0 := fun he => h (BitVec.eq_of_toNat_eq (by simpa using he))
  rw [decide_eq_true hd, decide_eq_true hq, Bool.and_self]

/-- The range check of IDIV passes. -/
theorem signedQuotient_inRange {w : Nat} {least greatest q : Int} {d : BitVec w} (h : d ≠ 0#w) (hl : least ≤ q)
    (hg : q ≤ greatest) : (decide (d.toInt ≠ 0) && decide (least ≤ q) && decide (q ≤ greatest)) = true := by
  rw [decide_eq_true (toInt_ne_zero h), decide_eq_true hl, decide_eq_true hg, Bool.and_self, Bool.and_self]

/-- Quotient and remainder of a byte divide in AL and AH are AX as a whole. -/
theorem Regs.set8_al_ah (r : Regs) (lo hi : Byte) : (r.set8 .al lo).set8 .ah hi = { r with ax := wordOf lo hi } := by
  simp [Regs.set8]

theorem sub_tdiv_mul (n d : Int) : n - n.tdiv d * d = n.tmod d := by
  rw [Int.tmod_def, Int.mul_comm]

/-- Settles O51: the four divides pass their range check. -/
theorem divide : Obligations.Divide := by
  unfold Obligations.Divide
  refine ⟨fun s m e => ⟨fun h => ⟨?_, ?_⟩, fun h => ⟨?_, ?_⟩⟩,
    fun s src d hd => ⟨fun h0 hq => ⟨_, divide_inRange hd (unsignedQuotient_inRange h0 hq), .of_mem rfl rfl rfl, ?div8⟩,
      fun h0 hl hg => ⟨_, divide_inRange hd (signedQuotient_inRange h0 hl hg), .of_mem rfl rfl rfl, ?idiv8⟩⟩,
    fun s src d hd => ⟨fun h0 hq => ⟨_, divide_inRange hd (unsignedQuotient_inRange h0 hq), .of_mem rfl rfl rfl, rfl⟩,
      fun h0 hl hg => ⟨_, divide_inRange hd (signedQuotient_inRange h0 hl hg), .of_mem rfl rfl rfl, ?idiv16⟩⟩⟩
  · exact complete_readRm_unreadable (z := size8) h
  · exact complete_readRm_unreadable (z := size8) h
  · exact complete_readRm_unreadable (z := size16) h
  · exact complete_readRm_unreadable (z := size16) h
  case div8 => rw [Regs.set8_al_ah]
  case idiv8 => rw [Regs.set8_al_ah, ← sub_tdiv_mul]
  case idiv16 =>
    rw [← sub_tdiv_mul]
    rfl

/-! ### The statement on ADC and SBB -/

/-- Only a form whose destination is a register reads its source from memory. -/
theorem CarryForm8.source_of_mem {form : CarryForm8} {m : MemOperand} (h : form.dst = .mem m) (s : State) :
    ∃ b, form.source s = .ok b := by
  cases form with
  | regRm d o => cases h
  | alImm v => cases h
  | rmReg d r => exact ⟨_, rfl⟩
  | rmImm d v => exact ⟨_, rfl⟩

theorem CarryForm16.source_of_mem {form : CarryForm16} {m : MemOperand} (h : form.dst = .mem m) (s : State) :
    ∃ b, form.source s = .ok b := by
  cases form with
  | regRm d o => cases h
  | axImm v => cases h
  | rmReg d r => exact ⟨_, rfl⟩
  | rmImm d v => exact ⟨_, rfl⟩
  | rmSextImm d v => exact ⟨_, rfl⟩

section
variable {s : State} {op : CarryOp}

/-- A byte form whose source can be read. -/
theorem exec_carryInstr8_of {form : CarryForm8} {b : Byte} {o : Rm Reg8} (hb : form.source s = .ok b) (hd : form.dst = o) :
    exec (carryInstr8 op form) s = complete s (carryRm size8 op s o b) := by
  rw [exec_carryInstr8, hb, Try.bind_ok, hd]

/-- A word form whose source can be read. -/
theorem exec_carryInstr16_of {form : CarryForm16} {b : Word} {o : Rm Reg16} (hb : form.source s = .ok b) (hd : form.dst = o) :
    exec (carryInstr16 op form) s = complete s (carryRm size16 op s o b) := by
  rw [exec_carryInstr16, hb, Try.bind_ok, hd]

theorem exec_carryInstr8_mem {form : CarryForm8} {m : MemOperand} (hd : form.dst = .mem m) :
    ∃ b, exec (carryInstr8 op form) s = complete s (carryRm size8 op s (.mem m) b) := by
  obtain ⟨b, hb⟩ := form.source_of_mem hd s
  exact ⟨b, exec_carryInstr8_of hb hd⟩

theorem exec_carryInstr16_mem {form : CarryForm16} {m : MemOperand} (hd : form.dst = .mem m) :
    ∃ b, exec (carryInstr16 op form) s = complete s (carryRm size16 op s (.mem m) b) := by
  obtain ⟨b, hb⟩ := form.source_of_mem hd s
  exact ⟨b, exec_carryInstr16_of hb hd⟩

end

/-- Settles O55: the 18 forms read their source and are then `carryRm` of either size. -/
theorem addSubtractWithCarry : Obligations.AddSubtractWithCarry := by
  unfold Obligations.AddSubtractWithCarry
  refine ⟨fun s op form e => ⟨fun h => ?source8, fun m hd h => ?unreadable8, fun m a q hd hr hw => ?refused8⟩,
    fun s op form e => ⟨fun h => ?source16, fun m hd h => ?unreadable16, fun m a q hd hr hw => ?refused16⟩,
    fun s op form b hb => ⟨fun r hd => ⟨_, exec_carryInstr8_of hb hd, setReg_flags_sameBytes _ _ _ _ _, rfl⟩,
      fun m a hd hr hw => ⟨_, (exec_carryInstr8_of hb hd).trans (complete_carryRm_mem (z := size8) hr hw),
        setByte_flags_wrote .., rfl⟩⟩,
    fun s op form b hb => ⟨fun r hd => ⟨_, exec_carryInstr16_of hb hd, setReg_flags_sameBytes _ _ _ _ _, rfl⟩,
      fun m a hd hr hw => ⟨_, (exec_carryInstr16_of hb hd).trans (complete_carryRm_mem (z := size16) hr hw),
        setWord_flags_wrote .., rfl⟩⟩⟩
  case source8 => rw [exec_carryInstr8, h, Try.bind_error, complete_error]
  case unreadable8 =>
    obtain ⟨b, hx⟩ := exec_carryInstr8_mem hd
    exact hx.trans (complete_carryRm_unreadable (z := size8) h)
  case refused8 =>
    obtain ⟨b, hx⟩ := exec_carryInstr8_mem hd
    exact hx.trans (complete_carryRm_refused (z := size8) hr hw)
  case source16 => rw [exec_carryInstr16, h, Try.bind_error, complete_error]
  case unreadable16 =>
    obtain ⟨b, hx⟩ := exec_carryInstr16_mem hd
    exact hx.trans (complete_carryRm_unreadable (z := size16) h)
  case refused16 =>
    obtain ⟨b, hx⟩ := exec_carryInstr16_mem hd
    exact hx.trans (complete_carryRm_refused (z := size16) hr hw)

/-! ### The statement on write protection -/

/-- An operand that can be read through another register than SS, and not written, fails the write check. -/
theorem operandAddress_protected {s : State} {m : MemOperand} {n a : Nat} (hr : operandAddress s m n .read = .ok a)
    (hs : s.operandSegment m ≠ .ss)
    (hc : (s.seg (s.operandSegment m)).cache.code = true ∨ (s.seg (s.operandSegment m)).cache.writable = false) :
    operandAddress s m n .write = .error protectionFault := by
  have hv : (s.seg (s.operandSegment m)).cache.valid = true := (lin_ok.mp hr).1
  rw [operandAddress, lin_deniesWrite hv ⟨rfl, hc⟩, if_neg hs]

/-- The instructions that cannot be restarted take the exception in the state of `undefinedAfterWriteFault`. -/
theorem exec_undefinedAfterWriteFault {s t : State} {m : MemOperand} {n a : Nat} {i : Instr}
    (hr : operandAddress s m n .read = .ok a) (hw : operandAddress s m n .write = .error protectionFault)
    (h : undefinedAfterWriteFault s m n i t) :
    exec i s = takeException t .generalProtection (some 0#16) ∧ t.mem = s.mem ∧ SameBytes s t := by
  have through : ∀ {op : ShiftOp}, op.throughCarry = true →
      shiftTrapState op s = { s with flags := s.flags.undefinedCarryOverflow s.freeIndex } := fun ho => by
    rw [shiftTrapState, if_pos ho]
  rcases h with ⟨rfl, r, rfl, rfl⟩ | ⟨rfl, r, rfl, rfl⟩ | ⟨rfl, op, form, rfl, hd, rfl⟩ | ⟨rfl, op, form, rfl, hd, rfl⟩ |
    ⟨rfl, op, form, ho, rfl, h0, rfl⟩ | ⟨rfl, op, form, ho, rfl, h0, rfl⟩
  · exact ⟨complete_exchange_protected (z := size8) hr hw, rfl, .of_mem rfl rfl rfl⟩
  · exact ⟨complete_exchange_protected (z := size16) hr hw, rfl, .of_mem rfl rfl rfl⟩
  · obtain ⟨b, hx⟩ := exec_carryInstr8_mem (op := op) (s := s) hd
    exact ⟨hx.trans (complete_carryRm_protected (z := size8) hr hw), rfl, .of_mem rfl rfl rfl⟩
  · obtain ⟨b, hx⟩ := exec_carryInstr16_mem (op := op) (s := s) hd
    exact ⟨hx.trans (complete_carryRm_protected (z := size16) hr hw), rfl, .of_mem rfl rfl rfl⟩
  · rw [exec_shiftInstr8, complete_shiftRm_protected (z := size8) h0 hr hw, through ho]
    exact ⟨rfl, rfl, .of_mem rfl rfl rfl⟩
  · rw [exec_shiftInstr16, complete_shiftRm_protected (z := size16) h0 hr hw, through ho]
    exact ⟨rfl, rfl, .of_mem rfl rfl rfl⟩

/-- Settles O56: the write check fails with exception 13, which each instruction takes in its own state at the trap. -/
theorem writeProtectedOperand : Obligations.WriteProtectedOperand := by
  unfold Obligations.WriteProtectedOperand
  intro s m n a _ hr hs hc
  have hw := operandAddress_protected hr hs hc
  have before : ∀ {op : ShiftOp}, op.throughCarry = false → shiftTrapState op s = s := fun ho => by
    rw [shiftTrapState, ho, if_neg Bool.false_ne_true]
  refine ⟨fun i t h => exec_undefinedAfterWriteFault hr hw h, fun op form ho h0 => ⟨?trap8, ?trap16⟩,
    fun op form h0 => ⟨?zero8, ?zero16⟩⟩
  case trap8 =>
    rintro rfl
    rw [exec_shiftInstr8, complete_shiftRm_protected (z := size8) h0 hr hw, before ho]
  case trap16 =>
    rintro rfl
    rw [exec_shiftInstr16, complete_shiftRm_protected (z := size16) h0 hr hw, before ho]
  case zero8 =>
    rintro rfl
    rw [exec_shiftInstr8, complete_shiftRm_zero_protected (z := size8) h0 hr hw]
  case zero16 =>
    rintro rfl
    rw [exec_shiftInstr16, complete_shiftRm_zero_protected (z := size16) h0 hr hw]

end Sys2Proof.Machine
end

section
/-! PROOFS. The values and flags of the integer instructions (45_integer_discrepancies.md R252 to R260, R268, R269): the steps of
the shifts and rotates repeated, and the six flags of ADC and SBB as facts about integers. -/

namespace Sys2Proof.Machine

/-! ### The steps repeated -/

section
variable {w : Nat}

/-- One step more, at the end. -/
theorem shiftTimes_succ (op : ShiftOp) (n : Nat) (v : BitVec w) (c : Bool) :
    shiftTimes op (n + 1) v c = shiftStep op (shiftTimes op n v c).1 (shiftTimes op n v c).2 := by
  induction n generalizing v c with
  | zero => rfl
  | succ n ih => exact ih (shiftStep op v c).1 (shiftStep op v c).2

/-- The operand after a left shift. -/
theorem shiftTimes_shl (n : Nat) (v : BitVec w) (c : Bool) : (shiftTimes .shl n v c).1 = v <<< n := by
  induction n with
  | zero => exact (BitVec.shiftLeft_zero v).symm
  | succ n ih => rw [shiftTimes_succ, ih, BitVec.shiftLeft_add]; rfl

/-- The operand after a logical right shift. -/
theorem shiftTimes_shr (n : Nat) (v : BitVec w) (c : Bool) : (shiftTimes .shr n v c).1 = v >>> n := by
  induction n with
  | zero => exact (BitVec.ushiftRight_zero v).symm
  | succ n ih => rw [shiftTimes_succ, ih, BitVec.shiftRight_add]; rfl

theorem getLsbD_topBit {k : Nat} (hk : k < w) (b : Bool) : (topBit w b).getLsbD k = (decide (k = w - 1) && b) := by
  have hlt : k - (w - 1) < w := by omega
  rw [topBit, BitVec.getLsbD_shiftLeft, BitVec.getLsbD_setWidth, BitVec.getLsbD_ofBool, decide_eq_true hk, decide_eq_true hlt,
    Bool.true_and, Bool.true_and]
  by_cases h : k = w - 1
  · simp [h]
  · have hbelow : k < w - 1 := by omega
    simp [h, hbelow]

/-- One arithmetic right step copies the sign. -/
theorem shiftStep_sar (v : BitVec w) (c : Bool) : (shiftStep .sar v c).1 = v.sshiftRight 1 := by
  refine BitVec.eq_of_getLsbD_eq fun k hk => ?_
  show (v >>> 1 ||| topBit w v.msb).getLsbD k = _
  rw [BitVec.getLsbD_or, BitVec.getLsbD_ushiftRight, getLsbD_topBit hk, BitVec.getLsbD_sshiftRight,
    decide_eq_false (Nat.not_le.mpr hk), Bool.not_false, Bool.true_and]
  by_cases h : 1 + k < w
  · have hne : k ≠ w - 1 := by omega
    rw [if_pos h, decide_eq_false hne, Bool.false_and, Bool.or_false]
  · have he : k = w - 1 := by omega
    rw [if_neg h, decide_eq_true he, Bool.true_and, BitVec.getLsbD_of_ge v (1 + k) (Nat.not_lt.mp h), Bool.false_or]

/-- The operand after an arithmetic right shift. -/
theorem shiftTimes_sar (n : Nat) (v : BitVec w) (c : Bool) : (shiftTimes .sar n v c).1 = v.sshiftRight n := by
  induction n with
  | zero => exact (BitVec.sshiftRight_zero).symm
  | succ n ih => rw [shiftTimes_succ, shiftStep_sar, ih, BitVec.sshiftRight_add]

/-- Shifted right by the width or more, every bit is the sign. -/
theorem sshiftRight_of_le {n : Nat} (v : BitVec w) (h : w ≤ n) :
    v.sshiftRight n = if v.msb then BitVec.allOnes w else 0#w := by
  refine BitVec.eq_of_getLsbD_eq fun k hk => ?_
  have hbeyond : ¬n + k < w := by omega
  rw [BitVec.getLsbD_sshiftRight, decide_eq_false (Nat.not_le.mpr hk), if_neg hbeyond, Bool.not_false, Bool.true_and]
  cases v.msb
  · simp
  · simp [hk]

/-- The bit that the last of `w` or more arithmetic right steps drops is the sign. -/
theorem sshiftRight_getLsbD_zero {n : Nat} (hw : 0 < w) (v : BitVec w) (h : w ≤ n + 1) : (v.sshiftRight n).getLsbD 0 = v.msb := by
  rw [BitVec.getLsbD_sshiftRight, decide_eq_false (Nat.not_le.mpr hw), Bool.not_false, Bool.true_and, Nat.add_zero]
  split
  · have hn : n = w - 1 := by omega
    rw [hn, BitVec.msb_eq_getLsbD_last]
  · rfl

/-! ### Rotates through carry -/

/-- The bits of an operand with its carry above them. -/
def bitAt (x : BitVec w × Bool) (i : Nat) : Bool := if i < w then x.1.getLsbD i else x.2

theorem bitAt_lt {x : BitVec w × Bool} {i : Nat} (h : i < w) : bitAt x i = x.1.getLsbD i := if_pos h

theorem bitAt_carry (x : BitVec w × Bool) : bitAt x w = x.2 := if_neg (Nat.lt_irrefl w)

/-- Operand and carry are their bits. -/
theorem ext_bitAt {x y : BitVec w × Bool} (h : ∀ i, i < w + 1 → bitAt x i = bitAt y i) : x = y := by
  refine Prod.ext (BitVec.eq_of_getLsbD_eq fun i hi => ?_) ?_
  · rw [← bitAt_lt hi, ← bitAt_lt hi, h i (by omega)]
  · rw [← bitAt_carry, ← bitAt_carry, h w (Nat.lt_succ_self w)]

/-- A left rotate through carry moves every bit up by one, the carry to the bottom. -/
theorem bitAt_rcl_step (hw : 0 < w) (v : BitVec w) (c : Bool) {i : Nat} (hi : i < w + 1) :
    bitAt (shiftStep .rcl v c) ((i + 1) % (w + 1)) = bitAt (v, c) i := by
  have hin : ∀ k, k < w → (v <<< 1 ||| (BitVec.ofBool c).setWidth w).getLsbD k = if k = 0 then c else v.getLsbD (k - 1) := by
    intro k hk
    rw [BitVec.getLsbD_or, BitVec.getLsbD_shiftLeft, BitVec.getLsbD_setWidth, BitVec.getLsbD_ofBool, decide_eq_true hk]
    by_cases h0 : k = 0
    · simp [h0]
    · have h1 : ¬k < 1 := by omega
      simp [h0]
  by_cases hc : i = w
  · rw [hc, Nat.mod_self, bitAt_carry, bitAt_lt hw]
    exact (hin 0 hw).trans (if_pos rfl)
  · have hiw : i < w := by omega
    rw [Nat.mod_eq_of_lt (by omega), bitAt_lt hiw]
    by_cases ht : i + 1 = w
    · rw [ht, bitAt_carry]
      show v.msb = v.getLsbD i
      rw [BitVec.msb_eq_getLsbD_last, show w - 1 = i by omega]
    · have h1 : i + 1 < w := by omega
      rw [bitAt_lt h1]
      exact (hin (i + 1) h1).trans (if_neg (Nat.succ_ne_zero i))

/-- A right rotate through carry moves every bit down by one, the bottom one to the carry. -/
theorem bitAt_rcr_step (hw : 0 < w) (v : BitVec w) (c : Bool) {i : Nat} (hi : i < w + 1) :
    bitAt (shiftStep .rcr v c) i = bitAt (v, c) ((i + 1) % (w + 1)) := by
  by_cases hc : i = w
  · rw [hc, Nat.mod_self, bitAt_carry, bitAt_lt hw]
    rfl
  · have hiw : i < w := by omega
    rw [Nat.mod_eq_of_lt (by omega), bitAt_lt hiw]
    show (v >>> 1 ||| topBit w c).getLsbD i = _
    rw [BitVec.getLsbD_or, BitVec.getLsbD_ushiftRight, getLsbD_topBit hiw, Nat.add_comm 1 i]
    by_cases ht : i + 1 = w
    · have he : i = w - 1 := by omega
      rw [ht, bitAt_carry, BitVec.getLsbD_of_ge v w (Nat.le_refl w), decide_eq_true he, Bool.false_or, Bool.true_and]
    · have hne : i ≠ w - 1 := by omega
      rw [bitAt_lt (by omega), decide_eq_false hne, Bool.false_and, Bool.or_false]

theorem bitAt_rcl_times (hw : 0 < w) (n : Nat) (v : BitVec w) (c : Bool) {i : Nat} (hi : i < w + 1) :
    bitAt (shiftTimes .rcl n v c) ((i + n) % (w + 1)) = bitAt (v, c) i := by
  induction n with
  | zero => rw [Nat.add_zero, Nat.mod_eq_of_lt hi]; rfl
  | succ n ih =>
    rw [shiftTimes_succ, ← ih, ← bitAt_rcl_step hw _ _ (Nat.mod_lt (i + n) (Nat.succ_pos w)), Nat.mod_add_mod, Nat.add_assoc]

theorem bitAt_rcr_times (hw : 0 < w) (n : Nat) (v : BitVec w) (c : Bool) {i : Nat} (hi : i < w + 1) :
    bitAt (shiftTimes .rcr n v c) i = bitAt (v, c) ((i + n) % (w + 1)) := by
  induction n generalizing i with
  | zero => rw [Nat.add_zero, Nat.mod_eq_of_lt hi]; rfl
  | succ n ih =>
    rw [shiftTimes_succ, bitAt_rcr_step hw _ _ hi]
    refine (ih (Nat.mod_lt _ (Nat.succ_pos w))).trans ?_
    rw [Nat.mod_add_mod, Nat.add_assoc, Nat.add_comm 1 n]

/-- A rotate through carry by one more than the width is the identity. -/
theorem rotateThroughCarry_full (hw : 0 < w) (v : BitVec w) (c : Bool) :
    shiftTimes .rcl (w + 1) v c = (v, c) ∧ shiftTimes .rcr (w + 1) v c = (v, c) := by
  have full : ∀ i, i < w + 1 → (i + (w + 1)) % (w + 1) = i := fun i hi => by
    rw [Nat.add_mod_right, Nat.mod_eq_of_lt hi]
  refine ⟨ext_bitAt fun i hi => ?_, ext_bitAt fun i hi => ?_⟩
  · have h := bitAt_rcl_times hw (w + 1) v c hi
    rwa [full i hi] at h
  · rw [bitAt_rcr_times hw (w + 1) v c hi, full i hi]

end

/-- Settles O50: the operand after `n` steps in closed form, and the carry from the last step. -/
theorem shiftCorners : Obligations.ShiftCorners := by
  unfold Obligations.ShiftCorners
  refine ⟨rotateThroughCarry_full (by decide), rotateThroughCarry_full (by decide), fun w v c n hw =>
    ⟨fun h => ?logical, fun h => ?arithmetic, fun h => ?rol⟩⟩
  case logical =>
    obtain ⟨k, rfl⟩ : ∃ k, n = k + 1 := ⟨n - 1, by omega⟩
    have hk : w ≤ k := Nat.le_of_lt_succ h
    refine ⟨Prod.ext ?shl ?shlCarry, Prod.ext ?shr ?shrCarry⟩
    case shl => exact (shiftTimes_shl ..).trans (BitVec.shiftLeft_eq_zero (by omega))
    case shlCarry =>
      rw [shiftTimes_succ, shiftTimes_shl, BitVec.shiftLeft_eq_zero hk]
      exact BitVec.msb_zero
    case shr => exact (shiftTimes_shr ..).trans (BitVec.ushiftRight_eq_zero (by omega))
    case shrCarry =>
      rw [shiftTimes_succ, shiftTimes_shr, BitVec.ushiftRight_eq_zero hk]
      exact BitVec.getLsbD_zero
  case arithmetic =>
    obtain ⟨k, rfl⟩ : ∃ k, n = k + 1 := ⟨n - 1, by omega⟩
    refine Prod.ext ((shiftTimes_sar ..).trans (sshiftRight_of_le v h)) ?_
    rw [shiftTimes_succ, shiftTimes_sar]
    exact sshiftRight_getLsbD_zero hw v h
  case rol =>
    obtain ⟨k, rfl⟩ : ∃ k, n = k + 1 := ⟨n - 1, by omega⟩
    rw [shiftTimes_succ]
    generalize (shiftTimes .rol k v c).1 = u
    show u.msb = (u <<< 1 ||| (BitVec.ofBool u.msb).setWidth w).getLsbD 0
    simp [hw]

/-! ### The flags of the shifts and rotates -/

/-- Parity by counting: an even number of the low 8 bits is 1 (10_state.md R35). -/
theorem parity_eq_count (b : Byte) : parity b = decide (((List.range 8).filter fun k => b.getLsbD k).length % 2 = 0) := by
  revert b
  decide

/-- Parity of the low byte of a result. -/
theorem parity_setWidth {w : Nat} (r : BitVec w) :
    parity (r.setWidth 8) = decide (((List.range 8).filter fun k => r.getLsbD k).length % 2 = 0) := by
  have hf : (List.range 8).filter (fun k => (r.setWidth 8).getLsbD k) = (List.range 8).filter fun k => r.getLsbD k :=
    List.filter_congr fun k hk => by rw [BitVec.getLsbD_setWidth, decide_eq_true (List.mem_range.mp hk), Bool.true_and]
  rw [parity_eq_count, hf]

theorem decide_eq_zero {w : Nat} (r : BitVec w) : decide (r = 0) = decide (r.toNat = 0) := by
  refine decide_eq_decide.mpr ⟨fun h => by rw [h]; exact BitVec.toNat_zero, fun h => BitVec.eq_of_toNat_eq ?_⟩
  rw [h]
  exact BitVec.toNat_zero.symm

theorem xor_eq_bne (a b : Bool) : (a ^^ b) = (a != b) := (congrFun₂ Bool.bne_eq_xor a b).symm

/-- Settles O48: the flags are those of the last step and of the result. -/
theorem shiftFlagRules : Obligations.ShiftFlagRules := by
  unfold Obligations.ShiftFlagRules
  intro w v op f index n _ _ r g
  have hbyOne : n = 1 → g.ovf = overflowByOne op v r g.cf := by
    rintro rfl
    cases op <;> rfl
  refine ⟨by cases op <;> rfl, fun h1 => ?overflow, fun hop => ?rotate, fun hop => ?shift⟩
  case overflow =>
    rw [hbyOne h1]
    cases op with
    | rol | rcl | shl => exact xor_eq_bne _ _
    | ror | rcr => exact (congrArg (· ^^ r.getLsbD (w - 2)) r.msb_eq_getLsbD_last).trans (xor_eq_bne _ _)
    | shr | sar => rfl
  case rotate =>
    simp only [List.mem_cons, List.not_mem_nil, or_false] at hop
    rcases hop with rfl | rfl | rfl | rfl <;> rfl
  case shift =>
    simp only [List.mem_cons, List.not_mem_nil, or_false] at hop
    have hzero := decide_eq_zero r
    have hparity := parity_setWidth r
    rcases hop with rfl | rfl | rfl <;> exact ⟨rfl, hzero, hparity, rfl⟩

/-! ### The flags of ADC and SBB -/

section
variable {w : Nat}

theorem adcResult_toNat (a b : BitVec w) (c : Bool) :
    ((adcResult a b c).toNat : Int) = ((a.toNat : Int) + 1 * (b.toNat + c.toNat)) % 2 ^ w := by
  rw [adcResult, BitVec.toNat_ofNat, Int.one_mul, ← Int.add_assoc]
  push_cast
  rfl

theorem sbbResult_toNat (a b : BitVec w) (c : Bool) :
    ((sbbResult a b c).toNat : Int) = ((a.toNat : Int) + -1 * (b.toNat + c.toNat)) % 2 ^ w := by
  have hpos : (0 : Int) < 2 ^ w := by positivity
  have hsum : (a.toNat : Int) - b.toNat - c.toNat = a.toNat + -1 * (b.toNat + c.toNat) := by ring
  rw [sbbResult, BitVec.toNat_ofInt, hsum]
  push_cast
  rw [Int.toNat_of_nonneg (Int.emod_nonneg _ hpos.ne')]

theorem toNat_lt_int (a : BitVec w) : (a.toNat : Int) < 2 ^ w := by exact_mod_cast a.isLt

theorem two_pow_eq_double (hw : 0 < w) : (2 : Int) ^ w = 2 * 2 ^ (w - 1) := by
  rw [← pow_succ', Nat.sub_add_cancel hw]

/-- The sign bit is 1 in the upper half. -/
theorem msb_eq_decide_int (a : BitVec w) : a.msb = decide ((2 : Int) ^ (w - 1) ≤ a.toNat) := by
  rw [BitVec.msb_eq_decide]
  exact decide_eq_decide.mpr (by exact_mod_cast Iff.rfl)

/-- The signed value, by the half the unsigned one lies in. -/
theorem toInt_cases (hw : 0 < w) (a : BitVec w) :
    ((a.toNat : Int) < 2 ^ (w - 1) ∧ a.toInt = a.toNat) ∨
    ((2 : Int) ^ (w - 1) ≤ a.toNat ∧ a.toInt = a.toNat - 2 * 2 ^ (w - 1)) := by
  have hsize := two_pow_eq_double hw
  rw [BitVec.toInt_eq_toNat_cond]
  push_cast
  split
  · rename_i h
    have h' : 2 * (a.toNat : Int) < 2 ^ w := by exact_mod_cast h
    exact .inl ⟨by omega, rfl⟩
  · rename_i h
    have h' : (2 : Int) ^ w ≤ 2 * a.toNat := by exact_mod_cast Nat.not_lt.mp h
    exact .inr ⟨by omega, by omega⟩

/-- A sum or difference of two operands and a carry wraps at most once. -/
theorem emod_cases {x m : Int} (h1 : -m ≤ x) (h2 : x < 2 * m) : x % m = x + m ∨ x % m = x ∨ x % m = x - m := by
  by_cases hneg : x < 0
  · refine .inl ?_
    rw [← Int.add_emod_right, Int.emod_eq_of_lt (by omega) (by omega)]
  · by_cases hlt : x < m
    · exact .inr (.inl (Int.emod_eq_of_lt (by omega) hlt))
    · refine .inr (.inr ?_)
      rw [← Int.sub_emod_right, Int.emod_eq_of_lt (by omega) (by omega)]

variable (hw : 0 < w)
include hw

/-- OF of ADC: operands of one sign and a result of the other is a signed sum out of range. -/
theorem adc_overflow (a b : BitVec w) (c : Bool) :
    (a.msb == b.msb && (adcResult a b c).msb != a.msb) =
      decide (a.toInt + 1 * (b.toInt + c.toNat) < -2 ^ (w - 1) ∨ 2 ^ (w - 1) ≤ a.toInt + 1 * (b.toInt + c.toNat)) := by
  have hsize := two_pow_eq_double hw
  have ha := toNat_lt_int a
  have hb := toNat_lt_int b
  have hc := c.toNat_lt
  have hr := adcResult_toNat a b c
  have hwrap := emod_cases (x := (a.toNat : Int) + 1 * (b.toNat + c.toNat)) (m := 2 ^ w) (by omega) (by omega)
  have hsa := toInt_cases hw a
  have hsb := toInt_cases hw b
  rw [← hr] at hwrap
  refine Bool.eq_iff_iff.mpr ?_
  simp only [msb_eq_decide_int, Bool.and_eq_true, beq_iff_eq, bne_iff_ne, ne_eq, decide_eq_decide,
    decide_eq_true_eq]
  omega

/-- OF of SBB: operands of different signs and a result of the second's is a signed difference out of range. -/
theorem sbb_overflow (a b : BitVec w) (c : Bool) :
    (a.msb != b.msb && (sbbResult a b c).msb != a.msb) =
      decide (a.toInt + -1 * (b.toInt + c.toNat) < -2 ^ (w - 1) ∨ 2 ^ (w - 1) ≤ a.toInt + -1 * (b.toInt + c.toNat)) := by
  have hsize := two_pow_eq_double hw
  have ha := toNat_lt_int a
  have hb := toNat_lt_int b
  have hc := c.toNat_lt
  have hr := sbbResult_toNat a b c
  have hwrap := emod_cases (x := (a.toNat : Int) + -1 * (b.toNat + c.toNat)) (m := 2 ^ w) (by omega) (by omega)
  have hsa := toInt_cases hw a
  have hsb := toInt_cases hw b
  rw [← hr] at hwrap
  refine Bool.eq_iff_iff.mpr ?_
  simp only [msb_eq_decide_int, Bool.and_eq_true, bne_iff_ne, ne_eq, decide_eq_decide, decide_eq_true_eq]
  omega

omit hw

/-- CF of ADC: the unsigned sum is out of range. -/
theorem adc_carry (a b : BitVec w) (c : Bool) :
    decide (2 ^ w ≤ a.toNat + b.toNat + c.toNat) =
      decide ((a.toNat : Int) + 1 * (b.toNat + c.toNat) < 0 ∨ (2 : Int) ^ w ≤ a.toNat + 1 * (b.toNat + c.toNat)) := by
  have hcast : 2 ^ w ≤ a.toNat + b.toNat + c.toNat ↔ (2 : Int) ^ w ≤ a.toNat + b.toNat + c.toNat := by exact_mod_cast Iff.rfl
  refine decide_eq_decide.mpr ?_
  rw [hcast]
  omega

/-- CF of SBB: the unsigned difference is out of range. -/
theorem sbb_carry (a b : BitVec w) (c : Bool) :
    decide ((a.toNat : Int) - b.toNat - c.toNat < 0) =
      decide ((a.toNat : Int) + -1 * (b.toNat + c.toNat) < 0 ∨ (2 : Int) ^ w ≤ a.toNat + -1 * (b.toNat + c.toNat)) := by
  have ha := toNat_lt_int a
  refine decide_eq_decide.mpr ?_
  omega

end

/-- AF is the carry or borrow of the low nibbles. -/
theorem adc_nibble (x y c : Nat) :
    decide (16 ≤ x % 16 + y % 16 + c) =
      decide (((x % 16 : Nat) : Int) + 1 * ((y % 16 : Nat) + c) < 0 ∨ 16 ≤ ((x % 16 : Nat) : Int) + 1 * ((y % 16 : Nat) + c)) :=
  decide_eq_decide.mpr (by omega)

theorem sbb_nibble (x y c : Nat) :
    decide (((x % 16 : Nat) : Int) - ((y % 16 : Nat) : Int) - (c : Int) < 0) =
      decide (((x % 16 : Nat) : Int) + -1 * ((y % 16 : Nat) + c) < 0 ∨ 16 ≤ ((x % 16 : Nat) : Int) + -1 * ((y % 16 : Nat) + c)) :=
  decide_eq_decide.mpr (by omega)

/-- Settles O54: each flag against the exact sum or difference. -/
theorem carryFlags : Obligations.CarryFlags := by
  unfold Obligations.CarryFlags
  intro w a b f op hw
  have hpos : 0 < w := by omega
  cases op with
  | adc =>
    exact ⟨adcResult_toNat a b f.cf, adc_carry a b f.cf, adc_nibble a.toNat b.toNat f.cf.toNat, adc_overflow hpos a b f.cf, rfl,
      decide_eq_zero _, parity_setWidth _, rfl⟩
  | sbb =>
    exact ⟨sbbResult_toNat a b f.cf, sbb_carry a b f.cf, sbb_nibble a.toNat b.toNat f.cf.toNat, sbb_overflow hpos a b f.cf, rfl,
      decide_eq_zero _, parity_setWidth _, rfl⟩

end Sys2Proof.Machine
end

section
/-! PROOFS. IRET without a task switch (42_interrupt_and_flag_instructions.md R189, R193): the frame, the checks in their order,
and the state returned to. -/

namespace Sys2Proof.Machine

/-! ### Real mode -/

section
variable {s : State}

theorem exec_iret_real (hp : s.prot = false) : exec .iret s = complete s (returnReal s) := by
  rw [exec_iret, returnFromHandler, hp, Bool.not_false, if_pos rfl]

/-- The flag word loaded in real mode (10_state.md R38). -/
theorem State.loadFlags_real {u : State} (cpl : BitVec 2) (v : Word) (hp : u.prot = false) :
    u.loadFlags cpl v = { u with
      flags := if u.platform.realModeHighFlags then Flags.ofWord v else { Flags.ofWord v with iopl := 0#2, nt := false } } := by
  rw [State.loadFlags, hp]
  rfl

/-- Settles O29: the three words of the frame in their order, and the state they give. -/
theorem returnReal_holds : Obligations.ReturnReal := by
  unfold Obligations.ReturnReal
  refine ⟨fun s e hp h0 => ?first, fun s ip e hp h0 h2 => ?second, fun s ip cs e hp h0 h2 h4 => ?third,
    fun s ip cs v hp h0 h2 h4 => ⟨_, ?returns, rfl, .of_mem rfl rfl rfl⟩⟩
  case first => rw [exec_iret_real hp, returnReal, h0, Try.bind_error, complete_error]
  case second => rw [exec_iret_real hp, returnReal, h0, Try.bind_ok, h2, Try.bind_error, complete_error]
  case third => rw [exec_iret_real hp, returnReal, h0, Try.bind_ok, h2, Try.bind_ok, h4, Try.bind_error, complete_error]
  case returns =>
    have hu : ∀ w g, ((s.setSp w).setSeg .cs g).prot = false := fun _ _ => hp
    rw [exec_iret_real hp, returnReal_ok.mpr ⟨ip, cs, v, h0, h2, h4, rfl⟩, complete_ok, loadSegReal_eq,
      State.loadFlags_real 0#2 v (hu _ _)]
    rfl

/-! ### Protected mode -/

theorem exec_iret_protected (hp : s.prot = true) (hn : s.flags.nt = false) : exec .iret s = complete s (returnProtected s) := by
  rw [exec_iret, returnFromHandler, hp, hn, Bool.not_true, if_neg Bool.false_ne_true, if_neg Bool.false_ne_true]

/-- Where the frame can be read, IRET checks the code segment. -/
theorem returnProtected_framed {ip cs v : Word} (h0 : frameWord s 0 = .ok ip) (h2 : frameWord s 2 = .ok cs)
    (h4 : frameWord s 4 = .ok v) :
    returnProtected s = (do
      require (!(isNullSelector cs || decide (rpl cs < s.cpl))) (.trap .generalProtection (some (selectorCode cs)))
      let d ← readDescriptor s .returnCode cs (.trap .generalProtection (some (selectorCode cs)))
      returnCodeChecks d cs
      let s1 ← returnStack s (rpl cs)
      require (decide (ip ≤ d.limit)) protectionFault
      pure (((s1.loadFrom .cs cs d (rpl cs)).loadFlags s.cpl v).jump ip)) := by
  rw [returnProtected, h0, Try.bind_ok, h2, Try.bind_ok, h4, Try.bind_ok]

theorem returnCodeChecks_notCode {d : Descriptor} (cs : Word) (h : d.isCode = false) :
    returnCodeChecks d cs = .error (.trap .generalProtection (some (selectorCode cs))) := by
  rw [returnCodeChecks, h, require_false, Try.bind_error]

theorem returnCodeChecks_absent {d : Descriptor} (cs : Word) (hc : d.isCode = true) (h : d.present = false) :
    returnCodeChecks d cs = .error (.trap .segmentNotPresent (some (selectorCode cs))) := by
  rw [returnCodeChecks, hc, require_true, Try.bind_ok, h, require_false, Try.bind_error]

/-- The level check, in the words of the statements. -/
theorem returnLevel_iff {d : Descriptor} {level : BitVec 2} :
    (if d.isConforming then d.dpl ≤ level else d.dpl = level) ↔ d.dpl = level ∨ (d.isConforming = true ∧ d.dpl ≤ level) := by
  cases d.isConforming with
  | false => simp
  | true =>
    simp only [if_true, true_and]
    exact ⟨.inr, fun h => h.elim (fun he => he ▸ BitVec.le_refl _) id⟩

theorem returnCodeChecks_level {d : Descriptor} {cs : Word} (hc : d.isCode = true) (hP : d.present = true)
    (h : ¬(d.dpl = rpl cs ∨ (d.isConforming = true ∧ d.dpl ≤ rpl cs))) :
    returnCodeChecks d cs = .error (.trap .generalProtection (some (selectorCode cs))) := by
  have hb : (if d.isConforming then decide (d.dpl ≤ rpl cs) else decide (d.dpl = rpl cs)) = false := by
    rw [← returnLevel_iff] at h
    cases hC : d.isConforming <;> simpa [hC] using h
  rw [returnCodeChecks, hc, require_true, Try.bind_ok, hP, require_true, Try.bind_ok, hb, require_false]

theorem returnCodeChecks_pass {d : Descriptor} {cs : Word} (hc : d.isCode = true) (hP : d.present = true)
    (h : d.dpl = rpl cs ∨ (d.isConforming = true ∧ d.dpl ≤ rpl cs)) : returnCodeChecks d cs = .ok () :=
  returnCodeChecks_ok.mpr ⟨hc, hP, returnLevel_iff.mpr h⟩

/-- The flag word loaded in protected mode (42_interrupt_and_flag_instructions.md R189). -/
theorem Flags.load_protectedMode (f : Flags) (cpl : BitVec 2) (high : Bool) (v : Word) :
    f.load true cpl high v = { Flags.ofWord v with
      ie := if cpl ≤ f.iopl then v.getLsbD 9 else f.ie
      iopl := if cpl = 0#2 then v.extractLsb' 12 2 else f.iopl } := rfl

theorem State.loadFlags_protected {u : State} (level : BitVec 2) (v : Word) (hp : u.prot = true) :
    (u.loadFlags level v).flags = { Flags.ofWord v with
      ie := if level ≤ u.flags.iopl then v.getLsbD 9 else u.flags.ie
      iopl := if level = 0#2 then v.extractLsb' 12 2 else u.flags.iopl } := by
  rw [← Flags.load_protectedMode u.flags level u.platform.realModeHighFlags v, ← hp]
  rfl

/-- A selector outside its table, in the two ways a statement says it. -/
theorem outsideTable_global {sel : Word} (hl : isLocal s.platform.format sel = false)
    (h : s.gdtr.limit.toNat < s.entryOffset sel + 7) : s.outsideTable sel = true := by
  rw [State.outsideTable, hl, if_neg Bool.false_ne_true, decide_eq_true h]

theorem outsideTable_local {sel : Word} (hl : isLocal s.platform.format sel = true)
    (h : s.ldtr.valid = false ∨ s.ldtr.limit.toNat < s.entryOffset sel + 7) : s.outsideTable sel = true := by
  rw [State.outsideTable, if_pos hl]
  rcases h with hv | hb
  · rw [hv, Bool.not_false, Bool.true_or]
  · rw [decide_eq_true hb, Bool.or_true]

section
variable {ip cs v : Word} (hp : s.prot = true) (hnt : s.flags.nt = false) (h0 : frameWord s 0 = .ok ip)
  (h2 : frameWord s 2 = .ok cs) (h4 : frameWord s 4 = .ok v)
include hp hnt h0 h2 h4

theorem exec_iret_selector (h : isNullSelector cs = true ∨ rpl cs < s.cpl) :
    exec .iret s = takeException s .generalProtection (some (selectorCode cs)) := by
  have hb : (!(isNullSelector cs || decide (rpl cs < s.cpl))) = false := by
    rcases h with h | h
    · rw [h, Bool.true_or, Bool.not_true]
    · rw [decide_eq_true h, Bool.or_true, Bool.not_true]
  rw [exec_iret_protected hp hnt, returnProtected_framed h0 h2 h4, hb, require_false, Try.bind_error]
  rfl

variable (hn : isNullSelector cs = false) (hl : s.cpl ≤ rpl cs)
include hn hl

/-- With a selector that is not null and whose RPL is not inner, the descriptor is read. -/
theorem exec_iret_framed :
    exec .iret s = complete s (do
      let d ← readDescriptor s .returnCode cs (.trap .generalProtection (some (selectorCode cs)))
      returnCodeChecks d cs
      let s1 ← returnStack s (rpl cs)
      require (decide (ip ≤ d.limit)) protectionFault
      pure (((s1.loadFrom .cs cs d (rpl cs)).loadFlags s.cpl v).jump ip)) := by
  have hb : (!(isNullSelector cs || decide (rpl cs < s.cpl))) = true := by simp [hn, hl]
  rw [exec_iret_protected hp hnt, returnProtected_framed h0 h2 h4, hb, require_true, Try.bind_ok]

theorem exec_iret_outside (h : s.outsideTable cs = true) :
    exec .iret s = takeException s .generalProtection (some (selectorCode cs)) := by
  rw [exec_iret_framed hp hnt h0 h2 h4 hn hl, readDescriptor_outsideTable h, Try.bind_error]
  rfl

variable {d : Descriptor} {e : Stop} (hd : readDescriptor s .returnCode cs e = .ok d)
include hd

theorem exec_iret_codeChecks {x : Stop} (h : returnCodeChecks d cs = .error x) : exec .iret s = endWith s x := by
  rw [exec_iret_framed hp hnt h0 h2 h4 hn hl, readDescriptor_any _ hd, Try.bind_ok, h, Try.bind_error, complete_error]

/-- The code segment passes its checks: the stack is loaded, and then IP is checked. -/
theorem exec_iret_checked (hc : returnCodeChecks d cs = .ok ()) :
    exec .iret s = complete s (do
      let s1 ← returnStack s (rpl cs)
      require (decide (ip ≤ d.limit)) protectionFault
      pure (((s1.loadFrom .cs cs d (rpl cs)).loadFlags s.cpl v).jump ip)) := by
  rw [exec_iret_framed hp hnt h0 h2 h4 hn hl, readDescriptor_any _ hd, Try.bind_ok, hc, Try.bind_ok]

theorem exec_iret_stackError (hc : returnCodeChecks d cs = .ok ()) {x : Stop} (h : returnStack s (rpl cs) = .error x) :
    exec .iret s = endWith s x := by
  rw [exec_iret_checked hp hnt h0 h2 h4 hn hl hd hc, h, Try.bind_error, complete_error]

theorem exec_iret_beyond (hc : returnCodeChecks d cs = .ok ()) {u : State} (hu : returnStack s (rpl cs) = .ok u)
    (h : d.limit < ip) : exec .iret s = takeException s .generalProtection (some 0#16) := by
  rw [exec_iret_checked hp hnt h0 h2 h4 hn hl hd hc, hu, Try.bind_ok, decide_eq_false (BitVec.not_le.mpr h), require_false,
    Try.bind_error]
  rfl

theorem exec_iret_returns (hc : returnCodeChecks d cs = .ok ()) {u : State} (hu : returnStack s (rpl cs) = .ok u)
    (h : ip ≤ d.limit) : exec .iret s = .next (((u.loadFrom .cs cs d (rpl cs)).loadFlags s.cpl v).jump ip).finish := by
  rw [exec_iret_checked hp hnt h0 h2 h4 hn hl hd hc, hu, Try.bind_ok, decide_eq_true h, require_true, Try.bind_ok]
  rfl

end

theorem returnStack_same {level : BitVec 2} (h : level = s.cpl) : returnStack s level = .ok (s.setSp (s.regs.sp + 6#16)) :=
  if_pos h

/-- The state after IRET to the same level. -/
theorem afterReturn_same {ip cs v : Word} (d : Descriptor) (hp : s.prot = true) :
    ((((s.setSp (s.regs.sp + 6#16)).loadFrom .cs cs d s.cpl).loadFlags s.cpl v).jump ip).finish =
      State.finish { s.setByte d.rightsAt d.accessed with
        regs := { s.regs with sp := s.regs.sp + 6#16 }
        flags := { Flags.ofWord v with
          ie := if s.cpl ≤ s.flags.iopl then v.getLsbD 9 else s.flags.ie
          iopl := if s.cpl = 0#2 then v.extractLsb' 12 2 else s.flags.iopl }
        cs := { val := cs, cache := { SegCache.ofAccess d.base d.limit d.access with dpl := s.cpl } }
        ip := ip
        ipPastEnd := false
        superseded := [] } := by
  rw [← Flags.load_protectedMode s.flags s.cpl s.platform.realModeHighFlags, ← hp, State.loadFrom,
    State.setSp_setByte]
  simp [State.loadFlags, State.jump, State.setSp, State.setSeg, State.prot, State.finish]

/-- Settles O30: the frame, then the checks of the code segment in their order, then IP. -/
theorem returnSameLevel : Obligations.ReturnSameLevel := by
  unfold Obligations.ReturnSameLevel
  intro s hp hnt
  have hx := exec_iret_protected hp hnt
  refine ⟨fun e h0 => ?ip, fun ip e h0 h2 => ?cs, fun ip cs e h0 h2 h4 => ?flags, fun ip cs v h0 h2 h4 => ?framed⟩
  case ip => rw [hx, returnProtected, h0, Try.bind_error, complete_error]
  case cs => rw [hx, returnProtected, h0, Try.bind_ok, h2, Try.bind_error, complete_error]
  case flags => rw [hx, returnProtected, h0, Try.bind_ok, h2, Try.bind_ok, h4, Try.bind_error, complete_error]
  case framed =>
    refine ⟨exec_iret_selector hp hnt h0 h2 h4, fun hn hl => ⟨fun ht hb => ?global, fun ht hb => ?loc, fun d e hd => ?code⟩⟩
    case global => exact exec_iret_outside hp hnt h0 h2 h4 hn hl (outsideTable_global ht hb)
    case loc => exact exec_iret_outside hp hnt h0 h2 h4 hn hl (outsideTable_local ht hb)
    case code =>
      have fails : ∀ {x}, returnCodeChecks d cs = .error x → exec .iret s = endWith s x := fun h =>
        exec_iret_codeChecks hp hnt h0 h2 h4 hn hl hd h
      refine ⟨fun hc => fails (returnCodeChecks_notCode cs hc), fun hc hP => fails (returnCodeChecks_absent cs hc hP),
        fun hc hP hlev => fails (returnCodeChecks_level hc hP hlev), fun hc hP hlev hs hb => ?beyond,
        fun hc hP hlev hs hb => ⟨_, ?returns, rfl, ?wrote⟩⟩
      case beyond =>
        exact exec_iret_beyond hp hnt h0 h2 h4 hn hl hd (returnCodeChecks_pass hc hP hlev) (returnStack_same hs) hb
      case returns =>
        rw [exec_iret_returns hp hnt h0 h2 h4 hn hl hd (returnCodeChecks_pass hc hP hlev) (returnStack_same hs) hb, hs,
          afterReturn_same d hp]
      case wrote => exact .of_mem (State.setByte_platform ..) (State.setByte_freeIndex ..) rfl

/-! ### An outer level -/

section
variable {level : BitVec 2} {sp ss : Word}

theorem returnStack_outer (hl : level ≠ s.cpl) (h6 : frameWord s 6 = .ok sp) (h8 : frameWord s 8 = .ok ss) :
    returnStack s level = (loadStackSegment s .returnStack ss level >>= fun u =>
      pure { u.setSp sp with ds := dropInner u.ds level, es := dropInner u.es level }) := by
  rw [returnStack, if_neg hl, h6, Try.bind_ok, h8, Try.bind_ok]

theorem loadStackSegment_null {p : Purpose} (h : isNullSelector ss = true) :
    loadStackSegment s p ss level = .error protectionFault := by
  rw [loadStackSegment, h, Bool.not_true, require_false, Try.bind_error]

theorem loadStackSegment_outside {p : Purpose} (hn : isNullSelector ss = false) (h : s.outsideTable ss = true) :
    loadStackSegment s p ss level = .error (.trap .generalProtection (some (selectorCode ss))) := by
  rw [loadStackSegment, hn, Bool.not_false, require_true, Try.bind_ok, readDescriptor_outsideTable h, Try.bind_error]

theorem loadStackSegment_checks {p : Purpose} {d : Descriptor} {e x : Stop} (hn : isNullSelector ss = false)
    (hd : readDescriptor s p ss e = .ok d) (h : stackSegmentChecks d ss level = .error x) :
    loadStackSegment s p ss level = .error x := by
  rw [loadStackSegment, hn, Bool.not_false, require_true, Try.bind_ok, readDescriptor_any _ hd, Try.bind_ok, h, Try.bind_error]

end

/-- The state with the stack of the outer level that IRET returns to. -/
def State.onOuterStack (s : State) (sp ss : Word) (d : Descriptor) (level : BitVec 2) : State :=
  { (s.loadFrom .ss ss d d.dpl).setSp sp with ds := dropInner s.ds level, es := dropInner s.es level }

theorem returnStack_outerStack {level : BitVec 2} {sp ss : Word} {d : Descriptor} {e : Stop} (hl : level ≠ s.cpl)
    (h6 : frameWord s 6 = .ok sp) (h8 : frameWord s 8 = .ok ss) (hn : isNullSelector ss = false)
    (hd : readDescriptor s .returnStack ss e = .ok d) (hr : rpl ss = level) (hw : d.isWritableData = true) (hdpl : d.dpl = level)
    (hP : d.present = true) : returnStack s level = .ok (s.onOuterStack sp ss d level) := by
  have hload : loadStackSegment s .returnStack ss level = .ok (s.loadFrom .ss ss d d.dpl) :=
    loadStackSegment_ok.mpr ⟨hn, d, readDescriptor_any _ hd, hr, hw, hdpl, hP, rfl⟩
  have hds : (s.loadFrom .ss ss d d.dpl).ds = s.ds := by simp [State.loadFrom]
  have hes : (s.loadFrom .ss ss d d.dpl).es = s.es := by simp [State.loadFrom]
  rw [returnStack_outer hl h6 h8, hload, Try.bind_ok, hds, hes]
  rfl

theorem Kept.onOuterStack {sp ss : Word} {d : Descriptor} {level : BitVec 2} (h : d.rightsAt < physicalSize) :
    Kept s (s.onOuterStack sp ss d level) := by
  have drop : ∀ g : Segment, g.cache.consistent = true → (dropInner g level).cache.consistent = true := by
    intro g hg
    unfold dropInner
    split <;> exact hg
  have hds : (s.loadFrom .ss ss d d.dpl).ds = s.ds := by simp [State.loadFrom]
  have hes : (s.loadFrom .ss ss d d.dpl).es = s.es := by simp [State.loadFrom]
  exact ((Kept.loadFrom s .ss ss d.dpl h).trans (.setSp _ sp)).trans
    ((Kept.setSeg _ .ds fun hc => drop _ (hds ▸ hc)).trans (.setSeg _ .es fun hc => drop _ (hes ▸ hc)))

end

section
variable (s : State) (v : Word) (d : Descriptor) (level : BitVec 2)

theorem State.loadFrom_cs_ss : (s.loadFrom .cs v d level).ss = s.ss := State.setByte_ss ..
theorem State.loadFrom_cs_ds : (s.loadFrom .cs v d level).ds = s.ds := State.setByte_ds ..
theorem State.loadFrom_cs_es : (s.loadFrom .cs v d level).es = s.es := State.setByte_es ..

end

/-- What IRET to an outer level comes to. -/
structure ReturnedOut (s t : State) (ip cs v sp ss : Word) (d d2 : Descriptor) : Prop where
  codeSegment : t.cs = { val := cs, cache := { SegCache.ofAccess d.base d.limit d.access with dpl := rpl cs } }
  stackSegment : t.ss = { val := ss, cache := SegCache.ofAccess d2.base d2.limit d2.access }
  level : t.cpl = rpl cs
  entryPoint : t.ip = ip
  regs : t.regs = { s.regs with sp := sp }
  flags : t.flags = { Flags.ofWord v with
    ie := if s.cpl ≤ s.flags.iopl then v.getLsbD 9 else s.flags.ie
    iopl := if s.cpl = 0#2 then v.extractLsb' 12 2 else s.flags.iopl }
  ds : t.ds = dropInner s.ds (rpl cs)
  es : t.es = dropInner s.es (rpl cs)
  system : SameSystem s t
  numeric : t.numeric = s.numeric
  superseded : t.superseded = []
  bytes : ∀ b, b ≠ d.rightsAt → b ≠ d2.rightsAt → t.byte b = s.byte b

theorem KeptCore.sameSystem {s t : State} (h : KeptCore s t) : SameSystem s t :=
  ⟨h.msw, h.gdtr, h.idtr, h.ldtr, h.tr, h.platform, h.freeIndex⟩

theorem returnedOut {s : State} {ip cs v sp ss : Word} {d d2 : Descriptor} (hp : s.prot = true)
    (hr : d.rightsAt < physicalSize) (hr2 : d2.rightsAt < physicalSize) :
    ReturnedOut s (((((s.onOuterStack sp ss d2 (rpl cs)).loadFrom .cs cs d (rpl cs)).loadFlags s.cpl v).jump ip).finish) ip cs v
      sp ss d d2 := by
  have kstack : Kept s (s.onOuterStack sp ss d2 (rpl cs)) := .onOuterStack hr2
  have kcode := kstack.trans (.loadFrom _ .cs cs (rpl cs) hr)
  have kept : Kept s (((((s.onOuterStack sp ss d2 (rpl cs)).loadFrom .cs cs d (rpl cs)).loadFlags s.cpl v).jump ip).finish) :=
    (kcode.trans (.loadFlags _ s.cpl v)).trans ((Kept.jump _ ip).trans (.finish _))
  have hprot : ((s.onOuterStack sp ss d2 (rpl cs)).loadFrom .cs cs d (rpl cs)).prot = true :=
    (State.prot_of_msw kcode.msw).trans hp
  have hflags : ((s.onOuterStack sp ss d2 (rpl cs)).loadFrom .cs cs d (rpl cs)).flags = s.flags := by
    simp [State.onOuterStack]
  refine ⟨rfl, ?_, ?_, rfl, ?_, ?_, ?_, ?_, kept.sameSystem, kept.numeric, rfl, fun b hb hb2 => ?_⟩
  · exact State.loadFrom_cs_ss _ cs d (rpl cs)
  · rw [State.cpl, (State.prot_of_msw kept.msw).trans hp, if_pos rfl]
    rfl
  · simp [State.onOuterStack]
  · exact (State.loadFlags_protected s.cpl v hprot).trans (by rw [hflags])
  · exact State.loadFrom_cs_ds _ cs d (rpl cs)
  · exact State.loadFrom_cs_es _ cs d (rpl cs)
  · refine (State.byte_congr (s := (s.onOuterStack sp ss d2 (rpl cs)).setByte d.rightsAt d.accessed) ?_ ?_ rfl).trans ?_
    · exact rfl
    · exact rfl
    · rw [State.setByte_byte_other _ _ hb]
      refine (State.byte_congr (s := s.setByte d2.rightsAt d2.accessed) rfl rfl rfl).trans ?_
      exact State.setByte_byte_other _ _ hb2

/-- Settles O31: the code segment passes its checks; then the stack segment's, in their order, then IP. -/
theorem returnOuterLevel : Obligations.ReturnOuterLevel := by
  unfold Obligations.ReturnOuterLevel
  intro s ip cs v d e hp hnt h0 h2 h4 hn hlt hd hcode hP hlevel
  have hl : s.cpl ≤ rpl cs := BitVec.le_of_lt hlt
  have hne : rpl cs ≠ s.cpl := fun h => BitVec.lt_irrefl _ (h ▸ hlt)
  have hc : returnCodeChecks d cs = .ok () := returnCodeChecks_pass hcode hP hlevel
  have fails : ∀ {x}, returnStack s (rpl cs) = .error x → exec .iret s = endWith s x := fun h =>
    exec_iret_stackError hp hnt h0 h2 h4 hn hl hd hc h
  refine ⟨fun e h6 => fails ?sp, fun sp e h6 h8 => fails ?ss, fun sp ss h6 h8 => ?stack⟩
  case sp => rw [returnStack, if_neg hne, h6, Try.bind_error]
  case ss => rw [returnStack, if_neg hne, h6, Try.bind_ok, h8, Try.bind_error]
  case stack =>
    have stops : ∀ {x}, loadStackSegment s .returnStack ss (rpl cs) = .error x → exec .iret s = endWith s x := fun h =>
      fails (by rw [returnStack_outer hne h6 h8, h, Try.bind_error])
    refine ⟨fun hnull => stops (loadStackSegment_null hnull), fun hss =>
      ⟨fun ht hb => stops (loadStackSegment_outside hss (outsideTable_global ht hb)),
        fun ht hb => stops (loadStackSegment_outside hss (outsideTable_local ht hb)), fun d2 e2 hd2 => ?segment⟩⟩
    case segment =>
      have checks : ∀ {x}, stackSegmentChecks d2 ss (rpl cs) = .error x → exec .iret s = endWith s x := fun h =>
        stops (loadStackSegment_checks hss hd2 h)
      refine ⟨fun hbad => checks (stackSegmentChecks_fault ?bad),
        fun ⟨hr, hw, hdpl⟩ hab => checks (stackSegmentChecks_absent hr hw hdpl hab),
        fun ⟨hr, hw, hdpl⟩ hpr hb => ?beyond, fun ⟨hr, hw, hdpl⟩ hpr hb => ?returns⟩
      case bad =>
        by_contra hgood
        simp only [not_or, ne_eq, not_not, Bool.not_eq_false] at hgood
        exact hbad hgood
      case beyond =>
        exact exec_iret_beyond hp hnt h0 h2 h4 hn hl hd hc (returnStack_outerStack hne h6 h8 hss hd2 hr hw hdpl hpr) hb
      case returns =>
        have hu := returnStack_outerStack hne h6 h8 hss hd2 hr hw hdpl hpr
        obtain ⟨h1, h2', h3, h4', h5, h6', h7, h8', h9, h10, h11, h12⟩ :=
          returnedOut (ip := ip) (cs := cs) (v := v) (sp := sp) (ss := ss) hp (readDescriptor_rightsAt hd)
            (readDescriptor_rightsAt hd2)
        exact ⟨_, exec_iret_returns hp hnt h0 h2 h4 hn hl hd hc hu hb, h1, h2', h3, h4', h5, h6', h7, h8', h9, h10, h11, h12⟩

end Sys2Proof.Machine
end

section
/-! PROOFS. The entry through a gate (60_exceptions.md R305): the words of a frame pushed one after the other, the stack they go
to, and what an entry ends in, whatever the number of words. -/

namespace Sys2Proof.Machine

/-! ### The words of a frame -/

/-- The words of a list pushed, one after the other. -/
def pushAll (s : State) (vs : List Word) : Try State := vs.foldlM push s

/-- The words of a list stored, each at its address. -/
def State.setWords (s : State) (l : List (Nat × Word)) : State := l.foldl (fun t p => t.setWord p.1 p.2) s

theorem pushAll_cons (s : State) (v : Word) (vs : List Word) : pushAll s (v :: vs) = (push s v >>= fun t => pushAll t vs) :=
  List.foldlM_cons

theorem pushAll_append (s : State) (vs ws : List Word) : pushAll s (vs ++ ws) = (pushAll s vs >>= fun t => pushAll t ws) :=
  List.foldlM_append

theorem State.setWords_cons (s : State) (p : Nat × Word) (l : List (Nat × Word)) :
    s.setWords (p :: l) = (s.setWord p.1 p.2).setWords l := rfl

/-- A byte store changes memory and what was superseded, nothing else. -/
theorem State.setByte_eq (s : State) (a : Nat) (v : Byte) : ∃ m h, s.setByte a v = { s with mem := m, superseded := h } := by
  unfold State.setByte
  split
  · exact ⟨_, _, rfl⟩
  · exact ⟨_, _, rfl⟩

theorem State.setWord_eq (s : State) (a : Nat) (v : Word) : ∃ m h, s.setWord a v = { s with mem := m, superseded := h } := by
  obtain ⟨m, h, e⟩ := s.setByte_eq a (lowByte v)
  obtain ⟨m', h', e'⟩ := (s.setByte a (lowByte v)).setByte_eq (a + 1) (highByte v)
  exact ⟨m', h', e'.trans (by rw [e])⟩

theorem State.setWords_eq (s : State) (l : List (Nat × Word)) : ∃ m h, s.setWords l = { s with mem := m, superseded := h } := by
  induction l generalizing s with
  | nil => exact ⟨_, _, rfl⟩
  | cons p l ih =>
    obtain ⟨m, h, e⟩ := s.setWord_eq p.1 p.2
    obtain ⟨m', h', e'⟩ := ih (s.setWord p.1 p.2)
    exact ⟨m', h', e'.trans (by rw [e])⟩

theorem State.setWords_mem_wf {s : State} (l : List (Nat × Word)) (h : s.mem.wf = true) : (s.setWords l).mem.wf = true := by
  induction l generalizing s with
  | nil => exact h
  | cons p l ih => exact ih (State.setWord_mem_wf p.1 p.2 h)

section
variable {u : State} {sp sp' : Word} {vs : List Word} {l : List (Nat × Word)}

/-- A frame that fits is stored, in a state with the stack segment it was laid out for. -/
theorem pushAll_frame {t : State} (hf : Frame u sp vs l sp') (hc : t.ss.cache = u.ss.cache) (hm : t.prot = u.prot) :
    pushAll (t.setSp sp) vs = .ok ((t.setWords l).setSp sp') := by
  induction hf generalizing t with
  | done sp => rfl
  | @push sp sp' v a vs l h _ ih =>
    have hc' : (t.setWord a v).ss.cache = u.ss.cache := by rw [State.setWord_ss, hc]
    have hm' : (t.setWord a v).prot = u.prot := (State.prot_of_msw (State.setWord_msw ..)).trans hm
    rw [pushAll_cons, push_at (t := t.setSp sp) (x := sp) v hc hm rfl h, Try.bind_ok, State.setSp_setWord, State.setSp_setSp,
      ih hc' hm', State.setWords_cons]

/-- The first word of a frame that cannot be pushed ends the entry. -/
theorem pushAll_error {t : State} {v : Word} {e : Stop} (hf : Frame u sp vs l sp') (hc : t.ss.cache = u.ss.cache)
    (hm : t.prot = u.prot) (he : stackAddress u (sp' - 2#16) = .error e) (post : List Word) :
    pushAll (t.setSp sp) (vs ++ v :: post) = .error e := by
  obtain ⟨m, h, ht⟩ := t.setWords_eq l
  have hlast : stackAddress ((t.setWords l).setSp sp') (sp' - 2#16) = .error e := by
    rw [stackAddress_congr (s := u) _ (by rw [ht]; exact hc) (by rw [ht]; exact hm), he]
  rw [pushAll_append, pushAll_frame hf hc hm, Try.bind_ok, pushAll_cons, push_error (s := (t.setWords l).setSp sp') v hlast,
    Try.bind_error]

theorem sub_two_sub (sp : Word) (k : Nat) :
    sp - 2#16 - BitVec.ofNat 16 (2 * k) = sp - BitVec.ofNat 16 (2 * (k + 1)) := by
  rw [sub_sub, Nat.mul_add, BitVec.ofNat_add, BitVec.add_comm]

/-- The words of a frame lie at even distances below its first SP. -/
theorem Frame.address (hf : Frame u sp vs l sp') : ∀ q ∈ l, ∃ k, 0 < k ∧ k ≤ vs.length ∧
    stackAddress u (sp - BitVec.ofNat 16 (2 * k)) = .ok q.1 := by
  induction hf with
  | done => exact fun _ hq => absurd hq List.not_mem_nil
  | @push sp sp' v a vs l h t ih =>
    intro q hq
    rcases List.mem_cons.mp hq with rfl | hq
    · exact ⟨1, by simp, by simp, h⟩
    · obtain ⟨k, hk, hle, ha⟩ := ih q hq
      exact ⟨k + 1, k.succ_pos, Nat.succ_le_succ hle, sub_two_sub sp k ▸ ha⟩

/-- No two words of a frame overlap. -/
theorem Frame.disjoint (hf : Frame u sp vs l sp') (hn : vs.length < 0x8000) :
    l.Pairwise fun p q => p.1 + 2 ≤ q.1 ∨ q.1 + 2 ≤ p.1 := by
  induction hf with
  | done => exact .nil
  | @push sp sp' v a vs l h t ih =>
    rw [List.length_cons] at hn
    refine .cons (fun q hq => ?_) (ih (by omega))
    obtain ⟨k, hk, hle, hb⟩ := t.address q hq
    refine stack_words_disjoint h (sub_two_sub sp k ▸ hb) (by decide) ?_ fun he => ?_
    · rw [BitVec.toNat_ofNat]
      omega
    · have := congrArg BitVec.toNat he
      rw [BitVec.toNat_ofNat, BitVec.toNat_ofNat] at this
      omega

theorem WroteWords.setWords (s : State) (hd : l.Pairwise fun p q => p.1 + 2 ≤ q.1 ∨ q.1 + 2 ≤ p.1) :
    WroteWords s (s.setWords l) l [] := by
  induction hd generalizing s with
  | nil => exact .of_mem rfl rfl rfl
  | @cons p l hp _ ih =>
    exact (WroteWords.setWord s p.1 p.2).trans (ih (s.setWord p.1 p.2)) (State.setWord_mem_wf p.1 p.2) (State.setWord_platform ..)
      fun x hx => (List.mem_singleton.mp hx) ▸ hp

end

/-! ### The handler -/

/-- In the handler of a gate, at a level (60_exceptions.md R305): its CS and IP, and the flags cleared. -/
def State.inHandler (s : State) (g : Gate) (d : Descriptor) (level : BitVec 2) : State :=
  let u := s.loadFrom .cs ((g.selector &&& 0xFFFC#16) ||| level.setWidth 16) d level
  State.jump { u with
    flags := { u.flags with tf := false, nt := false, ie := u.flags.ie && !decide (g.type = some .interrupt) } } g.offset

/-- The entry once the stack is chosen: the words pushed from an SP down, the check of the gate's offset, the handler. -/
def enterAt (t : State) (sp : Word) (ws : List Word) (g : Gate) (d : Descriptor) (level : BitVec 2) : Try State := do
  let u ← pushAll (t.setSp sp) ws
  require (decide (g.offset ≤ d.limit)) (.refuse .handlerOffset)
  pure (u.inHandler g d level)

/-- The state on the stack that the TSS names for a level (60_exceptions.md R303). -/
def State.onTssStack (s : State) (level : BitVec 2) (d2 : Descriptor) : State :=
  s.loadFrom .ss (s.wordFor .innerPointer (s.innerSsAt level)) d2 level

section
variable {s : State} {g : Gate} {d d2 : Descriptor} {e : Stop} {ret : Word} {ec : Option Word}

/-- The words pushed by an entry, with the check of the offset after them. -/
theorem enterAt_pushes (t : State) (a b c : Word) (level : BitVec 2) :
    enterAt t t.regs.sp ([a, b, c] ++ ec.toList) g d level = (do
      let s2 ← push t a
      let s3 ← push s2 b
      let s4 ← push s3 c
      let s5 ← match ec with
        | some v => push s4 v
        | none => pure s4
      require (decide (g.offset ≤ d.limit)) (.refuse .handlerOffset)
      pure (s5.inHandler g d level)) := by
  have ht : t.setSp t.regs.sp = t := rfl
  have hnil : ∀ u : State, pushAll u [] = pure u := fun _ => rfl
  cases ec <;>
    simp only [enterAt, ht, Option.toList, List.append_nil, List.cons_append, List.nil_append, pushAll_cons, hnil, bind_assoc,
      pure_bind, bind_pure]

section
variable (ht : g.type ≠ some .task) (hg : g.present = true)
include ht hg

section
variable (hd : readDescriptor s .handler g.selector e = .ok d) (hp : d.present = true) (hc : d.isCode = true) (hl : d.dpl ≤ s.cpl)
include hd hp hc hl

/-- A gate to a handler at the same level. -/
theorem enterGate_onStack (hi : entersInner s d = false) :
    enterGate s g ret ec = enterAt s s.regs.sp ([s.flags.toWord, s.cs.val, ret] ++ ec.toList) g d s.cpl := by
  rw [enterGate, decide_eq_false ht, Bool.not_false, require_true, Try.bind_ok, hg, require_true, Try.bind_ok,
    readDescriptor_any _ hd, Try.bind_ok, hp, hc, decide_eq_true hl, Bool.and_self, Bool.and_self, require_true, Try.bind_ok,
    enterAt_pushes]
  have hi' : (!d.isConforming && decide (d.dpl < s.cpl)) = false := hi
  simp only [hi']
  rfl

/-- A gate to a handler at a more privileged level. -/
theorem enterGate_switches (hi : entersInner s d = true) :
    enterGate s g ret ec = (switchStack s d.dpl >>= fun t =>
      enterAt t t.regs.sp ([s.flags.toWord, s.cs.val, ret] ++ ec.toList) g d d.dpl) := by
  simp only [enterAt_pushes]
  rw [enterGate, decide_eq_false ht, Bool.not_false, require_true, Try.bind_ok, hg, require_true, Try.bind_ok,
    readDescriptor_any _ hd, Try.bind_ok, hp, hc, decide_eq_true hl, Bool.and_self, Bool.and_self, require_true, Try.bind_ok]
  have hi' : (!d.isConforming && decide (d.dpl < s.cpl)) = true := hi
  simp only [hi']
  rfl

end
end

/-- The change to the stack of the TSS is two pushes. -/
theorem switchStack_pushes {level : BitVec 2} (h1 : s.innerSpAt level + 2 ≤ physicalSize)
    (h2 : s.innerSsAt level + 2 ≤ physicalSize)
    (hd : readDescriptor s .innerStack (s.wordFor .innerPointer (s.innerSsAt level)) e = .ok d2) (hp : d2.present = true)
    (hw : d2.isWritableData = true) (hl : d2.dpl = level) (hr : rpl (s.wordFor .innerPointer (s.innerSsAt level)) = level) :
    switchStack s level = pushAll ((s.onTssStack level d2).setSp (s.wordFor .innerPointer (s.innerSpAt level)))
      [s.ss.val, s.regs.sp] := by
  have hchecks : (d2.present && d2.isWritableData && decide (d2.dpl = level) &&
      decide (rpl (s.wordFor .innerPointer (s.innerSsAt level)) = level)) = true := by simp [hp, hw, hl, hr]
  rw [switchStack, physicalWord_ok.mpr ⟨h1, rfl⟩, Try.bind_ok, physicalWord_ok.mpr ⟨h2, rfl⟩, Try.bind_ok,
    readDescriptor_any _ hd, Try.bind_ok, hchecks, require_true, Try.bind_ok, pushAll_cons]
  exact (bind_congr fun t => (pushAll_cons t _ []).trans (bind_pure _)).symm

/-- A change of the stack that the rules refuse. -/
theorem switchStack_refused {level : BitVec 2} (h1 : s.innerSpAt level + 2 ≤ physicalSize)
    (h2 : s.innerSsAt level + 2 ≤ physicalSize)
    (h : s.outsideTable (s.wordFor .innerPointer (s.innerSsAt level)) = true ∨
      ∃ d2 e2, readDescriptor s .innerStack (s.wordFor .innerPointer (s.innerSsAt level)) e2 = .ok d2 ∧
        (d2.present = false ∨ d2.isWritableData = false ∨ d2.dpl ≠ level ∨
          rpl (s.wordFor .innerPointer (s.innerSsAt level)) ≠ level)) :
    switchStack s level = .error (.refuse .innerStackSegment) := by
  rw [switchStack, physicalWord_ok.mpr ⟨h1, rfl⟩, Try.bind_ok, physicalWord_ok.mpr ⟨h2, rfl⟩, Try.bind_ok]
  rcases h with h | ⟨d2, e2, hd, hbad⟩
  · rw [readDescriptor_outsideTable h, Try.bind_error]
  · have hfails : (d2.present && d2.isWritableData && decide (d2.dpl = level) &&
        decide (rpl (s.wordFor .innerPointer (s.innerSsAt level)) = level)) = false := by
      rcases hbad with h | h | h | h
      · simp [h]
      · simp [h]
      · simp [h]
      · simp [h]
    rw [readDescriptor_any _ hd, Try.bind_ok, hfails, require_false, Try.bind_error]

/-- The types of a gate that a handler is entered through. -/
theorem not_task_of_type {o : Option GateType} (h : o = some .interrupt ∨ o = some .trap) : o ≠ some .task := by
  rcases h with rfl | rfl
  · decide
  · decide

/-- An entry at the same level, on the stack in use. -/
theorem enterGate_sameLevel (h : SameLevelGate s { g with offset := 0#16 } d) :
    enterGate s g ret ec = enterAt s s.regs.sp ([s.flags.toWord, s.cs.val, ret] ++ ec.toList) g d s.cpl := by
  obtain ⟨e, hd⟩ := h.read
  have hl : d.dpl ≤ s.cpl := h.level.elim (fun he => he ▸ BitVec.le_refl _) And.right
  exact enterGate_onStack (not_task_of_type h.type) h.gatePresent hd h.present h.code hl (entersInner_false h.level)

/-- An entry at a more privileged level, on the stack of the TSS, where the old SS and SP go first. -/
theorem enterGate_innerLevel (h : InnerLevelGate s { g with offset := 0#16 } d d2) :
    enterGate s g ret ec = enterAt (s.onTssStack d.dpl d2) (s.wordFor .innerPointer (s.innerSpAt d.dpl))
      ([s.ss.val, s.regs.sp] ++ ([s.flags.toWord, s.cs.val, ret] ++ ec.toList)) g d d.dpl := by
  obtain ⟨e, hd⟩ := h.read
  obtain ⟨e2, hd2⟩ := h.stackRead
  have hi : entersInner s d = true := by
    rw [entersInner, h.conforming, decide_eq_true h.level, Bool.not_false, Bool.and_self]
  rw [enterGate_switches (g := g) (not_task_of_type h.type) h.gatePresent hd h.present h.code (BitVec.le_of_lt h.level) hi,
    switchStack_pushes h.spInside h.ssInside hd2 h.stackPresent h.stackWritable h.stackLevel h.stackRpl, enterAt, pushAll_append,
    bind_assoc]
  rfl

/-- The stack segment of an inner level is the one laid out for the frame. -/
theorem State.onTssStack_cache (h : d2.dpl = d.dpl) :
    (s.onTssStack d.dpl d2).ss = (s.onInnerStack d.dpl d2).ss ∧
      (s.onTssStack d.dpl d2).prot = (s.onInnerStack d.dpl d2).prot := by
  refine ⟨?_, State.prot_of_msw (State.loadFrom_msw ..)⟩
  rw [← h]
  rfl

/-- An entry that a gate permits but for its offset, on its stack. -/
theorem enterGate_entryStack {u : State} {sp : Word} {saved ws : List Word} (h : EntryStack s g d saved u sp ws)
    (hs : saved = [s.flags.toWord, s.cs.val, ret] ++ ec.toList) :
    ∃ t level, t.ss.cache = u.ss.cache ∧ t.prot = u.prot ∧ enterGate s g ret ec = enterAt t sp ws g d level := by
  subst hs
  cases h with
  | same h => exact ⟨s, s.cpl, rfl, rfl, enterGate_sameLevel h⟩
  | inner h =>
    obtain ⟨hss, hprot⟩ := State.onTssStack_cache h.stackLevel
    exact ⟨_, _, congrArg Segment.cache hss, hprot, enterGate_innerLevel h⟩

section
variable {t u : State} {sp sp' : Word} {ws : List Word} {l : List (Nat × Word)} {level : BitVec 2}

theorem enterAt_frame (hf : Frame u sp ws l sp') (hc : t.ss.cache = u.ss.cache) (hm : t.prot = u.prot) (ho : g.offset ≤ d.limit) :
    enterAt t sp ws g d level = .ok (((t.setWords l).setSp sp').inHandler g d level) := by
  rw [enterAt, pushAll_frame hf hc hm, Try.bind_ok, decide_eq_true ho, require_true, Try.bind_ok]
  rfl

theorem enterAt_beyond (hf : Frame u sp ws l sp') (hc : t.ss.cache = u.ss.cache) (hm : t.prot = u.prot)
    (ho : d.limit < g.offset) :
    enterAt t sp ws g d level = .error (.refuse .handlerOffset) := by
  rw [enterAt, pushAll_frame hf hc hm, Try.bind_ok, decide_eq_false (BitVec.not_le.mpr ho), require_false, Try.bind_error]

theorem enterAt_error {v : Word} {x : Stop} (hf : Frame u sp ws l sp') (hc : t.ss.cache = u.ss.cache) (hm : t.prot = u.prot)
    (he : stackAddress u (sp' - 2#16) = .error x) (post : List Word) : enterAt t sp (ws ++ v :: post) g d level = .error x := by
  rw [enterAt, pushAll_error hf hc hm he, Try.bind_error]

end

/-! ### Refused entries -/

theorem enterGate_refused {saved : List Word} {r : Refusal} (h : EntryRefused s g saved r)
    (hs : saved = [s.flags.toWord, s.cs.val, ret] ++ ec.toList) : entering (enterGate s g ret ec) = .error (.refuse r) := by
  cases h with
  | taskGate h => rw [enterGate, decide_eq_true h, Bool.not_true, require_false, Try.bind_error, entering]
  | absent ht h =>
    rw [enterGate, decide_eq_false ht, Bool.not_false, require_true, Try.bind_ok, h, require_false, Try.bind_error, entering]
  | noHandler ht hp h =>
    rw [enterGate, decide_eq_false ht, Bool.not_false, require_true, Try.bind_ok, hp, require_true, Try.bind_ok,
      readDescriptor_outsideTable h, Try.bind_error, entering]
  | @handler d _ ht hp hd h =>
    have hfails : (d.present && d.isCode && decide (d.dpl ≤ s.cpl)) = false := by
      rcases h with h | h | h
      · rw [h, Bool.false_and, Bool.false_and]
      · rw [h, Bool.and_false, Bool.false_and]
      · rw [decide_eq_false (BitVec.not_le.mpr h), Bool.and_false]
    rw [enterGate, decide_eq_false ht, Bool.not_false, require_true, Try.bind_ok, hp, require_true, Try.bind_ok,
      readDescriptor_any _ hd, Try.bind_ok, hfails, require_false, Try.bind_error, entering]
  | @innerStack d _ ht hp hd hdp hc hn hl h1 h2 h =>
    have hi : entersInner s d = true := by rw [entersInner, hn, decide_eq_true hl, Bool.not_false, Bool.and_self]
    rw [enterGate_switches ht hp hd hdp hc (BitVec.le_of_lt hl) hi, switchStack_refused h1 h2 h, Try.bind_error, entering]
  | push h hw hf he =>
    obtain ⟨t, level, hc, hm, heq⟩ := enterGate_entryStack h hs
    rw [heq, hw, enterAt_error hf hc hm he, entering]
  | pushRefused h hw hf he =>
    obtain ⟨t, level, hc, hm, heq⟩ := enterGate_entryStack h hs
    rw [heq, hw, enterAt_error hf hc hm he, entering]
  | offset h hf ho =>
    obtain ⟨t, level, hc, hm, heq⟩ := enterGate_entryStack h hs
    rw [heq, enterAt_beyond hf hc hm ho, entering]

/-! ### The state entered -/

section
variable {t : State} {l : List (Nat × Word)} {sp : Word} {level : BitVec 2}

/-- In the handler everything but CS, IP, the flags, SP, the stack segment and memory is as before the entry. -/
theorem entered_inHandler (ht : ∃ c m h, t = { s with ss := c, mem := m, superseded := h }) (hp : s.prot = true) :
    Entered s (((t.setWords l).setSp sp).inHandler g d level).finish g d level sp ∧
      (((t.setWords l).setSp sp).inHandler g d level).finish.ss = t.ss := by
  obtain ⟨c, m, h, rfl⟩ := ht
  obtain ⟨m', h', e⟩ := State.setWords_eq { s with ss := c, mem := m, superseded := h } l
  obtain ⟨m'', h'', e'⟩ := State.setByte_eq
    (({ s with ss := c, mem := m, superseded := h } : State).setWords l |>.setSp sp) d.rightsAt d.accessed
  rw [State.inHandler, State.loadFrom, e', e]
  refine ⟨⟨rfl, ?_, rfl, ?_, rfl, rfl, rfl, ⟨rfl, rfl, rfl, rfl, rfl, rfl, rfl⟩, rfl, rfl, rfl, rfl, rfl, rfl⟩, rfl⟩
  case refine_1 => exact if_pos hp
  case refine_2 => by_cases hi : g.type = some .interrupt <;> simp [State.finish, State.jump, State.setSp, State.setSeg, hi]

/-- What was written is a matter of the bytes alone. -/
theorem WroteWords.congr {s t u : State} {l : List (Nat × Word)} {ex : List Nat} (h : WroteWords s t l ex)
    (hu : ∀ b, u.byte b = t.byte b) : WroteWords s u l ex := by
  have hword : ∀ a, u.word a = t.word a := fun a => congrArg₂ wordOf (hu a) (hu (a + 1))
  exact ⟨fun b hb hl => (hu b).trans (h.1 b hb hl), fun w he p hp h0 h1 => (hword p.1).trans (h.2 w he p hp h0 h1)⟩

/-- What an entry stores: its frame, and the access bytes of the segments it loads. -/
theorem wrote_inHandler {u : State} {sp0 : Word} {ws : List Word} {ex : List Nat} (hf : Frame u sp0 ws l sp)
    (hn : ws.length < 0x8000) (ht : WroteWords s t [] ex) (hw : s.mem.wf = true → t.mem.wf = true)
    (hp : t.platform = s.platform) :
    WroteWords s (((t.setWords l).setSp sp).inHandler g d level).finish l (ex ++ [d.rightsAt]) := by
  have frame : WroteWords s (t.setWords l) l (ex ++ []) :=
    ht.trans (.setWords t (hf.disjoint hn)) hw hp fun _ hq => absurd hq List.not_mem_nil
  have rights : WroteWords s ((t.setWords l).setByte d.rightsAt d.accessed) (l ++ []) (ex ++ [] ++ [d.rightsAt]) := by
    obtain ⟨m, h, e⟩ := t.setWords_eq l
    refine frame.trans (.setByte _ _ _) (fun w => State.setWords_mem_wf l (hw w)) ?_ fun _ _ _ hq => absurd hq List.not_mem_nil
    rw [e]
    exact hp
  have same : ∀ b, (((t.setWords l).setSp sp).inHandler g d level).finish.byte b =
      ((t.setWords l).setByte d.rightsAt d.accessed).byte b := by
    rw [State.inHandler, State.loadFrom, State.setSp_setByte]
    exact SameBytes.of_mem rfl rfl rfl
  rw [List.append_nil, List.append_nil] at rights
  exact rights.congr same

end

/-! ### Entries that complete -/

section
variable {l : List (Nat × Word)} {sp : Word} {ws : List Word}

/-- The frame of an entry is short. -/
theorem saved_length (pre : List Word) (h : pre.length ≤ 2) (a b c : Word) (ec : Option Word) :
    (pre ++ ([a, b, c] ++ ec.toList)).length < 0x8000 := by
  have hec : ec.toList.length ≤ 1 := by cases ec <;> simp
  simp only [List.length_append, List.length_cons, List.length_nil]
  omega

theorem SameLevelGate.stackOnly (h : SameLevelGate s g d) : SameLevelGate s { g with offset := 0#16 } d :=
  { h with inside := Nat.zero_le _ }

theorem InnerLevelGate.stackOnly (h : InnerLevelGate s g d d2) : InnerLevelGate s { g with offset := 0#16 } d d2 :=
  { h with inside := Nat.zero_le _ }

theorem enterGate_same_state (h : SameLevelGate s g d)
    (hf : Frame s s.regs.sp ([s.flags.toWord, s.cs.val, ret] ++ ec.toList) l sp) :
    enterGate s g ret ec = .ok (((s.setWords l).setSp sp).inHandler g d s.cpl) := by
  rw [enterGate_sameLevel h.stackOnly, enterAt_frame hf rfl rfl h.inside]

/-- An entry at the same level, with its frame. -/
theorem enterGate_same_entered (hp : s.prot = true) (h : SameLevelGate s g d)
    (hf : Frame s s.regs.sp ([s.flags.toWord, s.cs.val, ret] ++ ec.toList) l sp) :
    ∃ t, enterGate s g ret ec = .ok t ∧ t.finish.ss = s.ss ∧ Entered s t.finish g d s.cpl sp ∧
      WroteWords s t.finish l [d.rightsAt] := by
  obtain ⟨entered, hss⟩ := entered_inHandler (s := s) (g := g) (d := d) (l := l) (sp := sp) (level := s.cpl) ⟨_, _, _, rfl⟩ hp
  exact ⟨_, enterGate_same_state h hf, hss, entered,
    wrote_inHandler (ex := []) hf (saved_length [] (Nat.zero_le _) _ _ _ ec) (.of_mem rfl rfl rfl) id rfl⟩

/-- An entry at a more privileged level, with its frame on the stack of the TSS. -/
theorem enterGate_inner_entered (hp : s.prot = true) (h : InnerLevelGate s g d d2)
    (hf : Frame (s.onInnerStack d.dpl d2) (s.wordFor .innerPointer (s.innerSpAt d.dpl))
      ([s.ss.val, s.regs.sp] ++ ([s.flags.toWord, s.cs.val, ret] ++ ec.toList)) l sp) :
    ∃ t, enterGate s g ret ec = .ok t ∧ t.finish.ss = (s.onInnerStack d.dpl d2).ss ∧ Entered s t.finish g d d.dpl sp ∧
      WroteWords s t.finish l [d2.rightsAt, d.rightsAt] := by
  obtain ⟨hss, hprot⟩ := State.onTssStack_cache (s := s) h.stackLevel
  have stored : WroteWords s (s.onTssStack d.dpl d2) [] [d2.rightsAt] :=
    (WroteWords.setByte s d2.rightsAt d2.accessed).congr (SameBytes.of_mem rfl rfl rfl)
  have only : ∃ c m h, s.onTssStack d.dpl d2 = { s with ss := c, mem := m, superseded := h } := by
    obtain ⟨m, h, e⟩ := s.setByte_eq d2.rightsAt d2.accessed
    rw [State.onTssStack, State.loadFrom, e]
    exact ⟨_, _, _, rfl⟩
  obtain ⟨entered, hkeep⟩ := entered_inHandler (g := g) (d := d) (l := l) (sp := sp) (level := d.dpl) only hp
  refine ⟨_, (enterGate_innerLevel h.stackOnly).trans (enterAt_frame hf (congrArg Segment.cache hss) hprot h.inside),
    hkeep.trans hss, entered, wrote_inHandler hf (saved_length [s.ss.val, s.regs.sp] (Nat.le_refl 2) _ _ _ ec) stored ?_ ?_⟩
  · exact State.setByte_mem_wf d2.rightsAt d2.accessed
  · exact State.setByte_platform ..

end
end

/-! ### Frames by their addresses -/

section
variable {u : State} {sp a b c : Word}

theorem sub_two_two (sp i j : Word) (h : i + 2#16 = j) : sp - i - 2#16 = sp - j := by rw [sub_sub, h]

theorem Frame.pushAt {x sp' v : Word} {n : Nat} {vs : List Word} {l : List (Nat × Word)} (hx : sp - 2#16 = x)
    (h : stackAddress u x = .ok n) (t : Frame u x vs l sp') : Frame u sp (v :: vs) ((n, v) :: l) sp' := by
  subst hx
  exact .push h t

/-- Three words, each at its address. -/
theorem frame_three {a1 a2 a3 : Nat} (h1 : stackAddress u (sp - 2#16) = .ok a1) (h2 : stackAddress u (sp - 4#16) = .ok a2)
    (h3 : stackAddress u (sp - 6#16) = .ok a3) : Frame u sp [a, b, c] [(a1, a), (a2, b), (a3, c)] (sp - 6#16) :=
  .pushAt rfl h1 (.pushAt (sub_two_two sp _ _ rfl) h2 (.pushAt (sub_two_two sp _ _ rfl) h3 (.done _)))

/-- The three words of a frame have such addresses. -/
theorem Frame.three_addresses {l : List (Nat × Word)} {sp' : Word} (h : Frame u sp [a, b, c] l sp') :
    ∃ a1 a2 a3, stackAddress u (sp - 2#16) = .ok a1 ∧ stackAddress u (sp - 4#16) = .ok a2 ∧
      stackAddress u (sp - 6#16) = .ok a3 ∧ l = [(a1, a), (a2, b), (a3, c)] ∧ sp' = sp - 6#16 := by
  have e4 := sub_two_two sp 2#16 4#16 rfl
  have e6 := sub_two_two sp 4#16 6#16 rfl
  cases h with
  | push h1 h =>
    cases h with
    | push h2 h =>
      cases h with
      | push h3 h =>
        cases h
        rw [e4, e6] at h3
        exact ⟨_, _, _, h1, e4 ▸ h2, h3, rfl, by rw [e4, e6]⟩

/-- Five words, each at its address. -/
theorem frame_five {a1 a2 a3 a4 a5 : Nat} {d e : Word} (h1 : stackAddress u (sp - 2#16) = .ok a1)
    (h2 : stackAddress u (sp - 4#16) = .ok a2) (h3 : stackAddress u (sp - 6#16) = .ok a3)
    (h4 : stackAddress u (sp - 8#16) = .ok a4) (h5 : stackAddress u (sp - 10#16) = .ok a5) :
    Frame u sp [a, b, c, d, e] [(a1, a), (a2, b), (a3, c), (a4, d), (a5, e)] (sp - 10#16) :=
  .pushAt rfl h1 (.pushAt (sub_two_two sp _ _ rfl) h2 (.pushAt (sub_two_two sp _ _ rfl) h3
    (.pushAt (sub_two_two sp _ _ rfl) h4 (.pushAt (sub_two_two sp _ _ rfl) h5 (.done _)))))

end

end Sys2Proof.Machine
end

section
/-! PROOFS. The interrupts, the exceptions, and the events at an instruction boundary (42_interrupt_and_flag_instructions.md R180
to R183, 60_exceptions.md R290, R302 to R308): which entry each of them makes, with which return address and error code. -/

namespace Sys2Proof.Machine

/-! ### Gates -/

section
variable {s : State} {p : Purpose} {n : Nat}

theorem readGate_beyond (e : Stop) (h : s.idtr.limit.toNat < 8 * n + 7) : readGate s p n e = .error e := by
  rw [readGate, decide_eq_false (Nat.not_le.mpr h), require_false, Try.bind_error]

theorem readGate_noGate (e : Stop) (hl : 8 * n + 7 ≤ s.idtr.limit.toNat) (hb : s.idtr.base.toNat + 8 * n + 8 ≤ physicalSize)
    (h : (s.gateAt p (s.idtr.base.toNat + 8 * n)).type = none) : readGate s p n e = .error e := by
  rw [readGate, decide_eq_true hl, require_true, Try.bind_ok, requirePhysical_ok (u := ()) |>.mpr hb, Try.bind_ok, h,
    Option.isSome_none, require_false, Try.bind_error]

/-- The types of a gate in the default format (60_exceptions.md R302). -/
theorem gateTypeOf_default (bits : BitVec 5) :
    (gateTypeOf DescFormat.default bits = some .task ↔ bits = 5#5) ∧
    (gateTypeOf DescFormat.default bits = some .interrupt ↔ bits = 6#5) ∧
    (gateTypeOf DescFormat.default bits = some .trap ↔ bits = 7#5) := by
  revert bits
  decide

/-- A gate in the default format (60_exceptions.md R302). -/
theorem State.gateAt_default {a : Nat} (hf : s.platform.format = DescFormat.default) :
    s.gateAt p a =
      { offset := s.wordFor p a, selector := s.wordFor p (a + 2), present := (s.byteFor p (a + 5)).getLsbD 7
        dpl := (s.byteFor p (a + 5)).extractLsb' 5 2
        type := gateTypeOf DescFormat.default ((s.byteFor p (a + 5)).extractLsb' 0 5) } := by
  have haccess : normalRights DescFormat.default.bits (s.byteFor p (a + DescFormat.default.gateRights.val)) =
      s.byteFor p (a + 5) := normalRights_default _
  rw [State.gateAt, hf, haccess]
  rfl

/-- The error code of a vector in the default format (60_exceptions.md R304). -/
theorem vectorCode_default (n : Nat) (ext : Bool) :
    vectorCode DescFormat.default n ext = BitVec.ofNat 16 (8 * n + 2 + ext.toNat) := by
  have h : n * 2 ^ 3 + 2 ^ 1 + ext.toNat * 2 ^ 0 = 8 * n + 2 + ext.toNat := by omega
  exact congrArg (BitVec.ofNat 16) h

end

/-! ### The entries of INT, of an exception and of an external interrupt -/

section
variable {s : State} {n : Nat} {g : Gate} {e : Stop}

theorem exec_int {i : Instr} {n : Byte} (h : isInt i n) : exec i s = complete s (softwareInterrupt s n.toNat) := by
  rcases h with rfl | ⟨rfl, rfl⟩
  · rfl
  · rfl

theorem softwareInterrupt_noGate (hp : s.prot = true)
    (h : readGate s .interruptVector n (s.vectorFault n false) = .error (s.vectorFault n false)) :
    softwareInterrupt s n = .error (s.vectorFault n false) := by
  rw [softwareInterrupt, if_pos hp, h, Try.bind_error]

theorem softwareInterrupt_inner (hp : s.prot = true) (hg : readGate s .interruptVector n e = .ok g) (hl : g.dpl < s.cpl) :
    softwareInterrupt s n = .error (s.vectorFault n false) := by
  rw [softwareInterrupt, if_pos hp, readGate_any _ hg, Try.bind_ok, decide_eq_true hl, Bool.not_true, require_false,
    Try.bind_error]

theorem softwareInterrupt_gate (hp : s.prot = true) (hg : readGate s .interruptVector n e = .ok g) (hl : s.cpl ≤ g.dpl) :
    softwareInterrupt s n = entering (enterGate s g (BitVec.ofNat 16 s.ip1) none) := by
  rw [softwareInterrupt, if_pos hp, readGate_any _ hg, Try.bind_ok, decide_eq_false (BitVec.not_lt.mpr hl), Bool.not_false,
    require_true, Try.bind_ok]

theorem externalInterrupt_noGate (hp : s.prot = true)
    (h : readGate s .interruptVector n (s.vectorFault n true) = .error (s.vectorFault n true)) :
    externalInterrupt s n = .error (s.vectorFault n true) := by
  rw [externalInterrupt, if_pos hp, h, Try.bind_error]

theorem externalInterrupt_gate (hp : s.prot = true) (hg : readGate s .interruptVector n e = .ok g) :
    externalInterrupt s n = entering (enterGate s g s.ip none) := by
  rw [externalInterrupt, if_pos hp, readGate_any _ hg, Try.bind_ok]

section
variable {x : Exc} {ec : Option Word}

theorem takeException_entered {t : State} (h : deliver s x ec = .ok t) : takeException s x ec = .next t.finish :=
  takeException_next.mpr ⟨t, h, rfl⟩

theorem takeException_refused {r : Refusal} (h : deliver s x ec = .error (.refuse r)) : takeException s x ec = .refused r := by
  rw [takeException, h]

theorem deliver_noGate (hp : s.prot = true)
    (h : readGate s .exceptionVector x.vector (.refuse .faultDuringEntry) = .error (.refuse .faultDuringEntry)) :
    deliver s x ec = .error (.refuse .faultDuringEntry) := by
  rw [deliver, if_pos hp, h, Try.bind_error, entering]

theorem deliver_gate (hp : s.prot = true) (hg : readGate s .exceptionVector x.vector e = .ok g) :
    deliver s x ec = entering (enterGate s g s.ip ec) := by
  rw [deliver, if_pos hp, readGate_any _ hg, Try.bind_ok]

end
end

/-- The registers that an entry through the table writes are no part of memory. -/
theorem WroteWords.enterReal {s t : State} {l : List (Nat × Word)} {ex : List Nat} (h : WroteWords s t l ex)
    (r : Regs) (f : Flags) (c : Segment) (off : Word) :
    WroteWords s (State.finish { t with regs := r, flags := f, cs := c, ip := off, ipPastEnd := false, superseded := [] }) l ex :=
  h.congr (SameBytes.of_mem rfl rfl rfl)

/-- Settles O23: the entry through the table, with the frame at its three addresses. -/
theorem softwareInterruptReal : Obligations.SoftwareInterruptReal := by
  unfold Obligations.SoftwareInterruptReal
  intro s i n a1 a2 a3 hi hp hl hb h1 h2 h3
  refine ⟨_, ?next, rfl, (wrote_three _ _ _ h1 h2 h3).enterReal _ _ _ _⟩
  rw [exec_int hi, softwareInterrupt_ok.mpr (.inr ⟨hp, enterReal_at hl hb h1 h2 h3⟩), complete_ok]

/-- Settles O27: the same entry, with IP as its return address. -/
theorem exceptionEntryReal : Obligations.ExceptionEntryReal := by
  unfold Obligations.ExceptionEntryReal
  intro s x ec a1 a2 a3 hp hl hb h1 h2 h3
  exact ⟨_, takeException_entered (deliver_ok.mpr (.inr ⟨hp, enterReal_at hl hb h1 h2 h3⟩)), rfl,
    (wrote_three _ _ _ h1 h2 h3).enterReal _ _ _ _⟩

/-- Settles O24: the gate is read, then its level tested, then the entry made or refused. -/
theorem softwareInterruptGatePrivilege : Obligations.SoftwareInterruptGatePrivilege := by
  unfold Obligations.SoftwareInterruptGatePrivilege
  intro s i n hi hp
  have traps (h : softwareInterrupt s n.toNat = .error (s.vectorFault n.toNat false)) :
      exec i s = takeException s .generalProtection (some (vectorCode s.platform.format n.toNat false)) := by
    rw [exec_int hi, h, complete_error]
    rfl
  refine ⟨fun g e hg hl => traps (softwareInterrupt_inner hp hg hl), fun g e r hg hl hr => ?refused,
    fun h => traps (softwareInterrupt_noGate hp (readGate_beyond _ h)),
    fun hl hb ht => traps (softwareInterrupt_noGate hp (readGate_noGate _ hl hb ht)), fun hf => ⟨?code, ?fields⟩⟩
  case refused =>
    rw [exec_int hi, softwareInterrupt_gate hp hg hl, enterGate_refused hr rfl, complete_error]
    rfl
  case code => rw [hf, vectorCode_default]; rfl
  case fields =>
    rw [State.gateAt_default hf]
    exact ⟨rfl, rfl, rfl, rfl, gateTypeOf_default _⟩

/-- The state after an entry at the same level, written out. -/
theorem afterEntry_same (s : State) (g : Gate) (d : Descriptor) (a1 a2 a3 : Nat) (ret : Word) :
    (((s.setWords [(a1, s.flags.toWord), (a2, s.cs.val), (a3, ret)]).setSp (s.regs.sp - 6#16)).inHandler g d s.cpl).finish =
      State.finish
        { (((s.setWord a1 s.flags.toWord).setWord a2 s.cs.val).setWord a3 ret).setByte d.rightsAt d.accessed with
          regs := { s.regs with sp := s.regs.sp - 6#16 }
          flags := { s.flags with tf := false, nt := false, ie := if g.type = some .interrupt then false else s.flags.ie }
          cs := { val := (g.selector &&& 0xFFFC#16) ||| s.cpl.setWidth 16
                  cache := { SegCache.ofAccess d.base d.limit d.access with dpl := s.cpl } }
          ip := g.offset
          ipPastEnd := false
          superseded := [] } := by
  have hie : (s.flags.ie && !decide (g.type = some .interrupt)) = if g.type = some .interrupt then false else s.flags.ie := by
    by_cases hi : g.type = some .interrupt <;> simp [hi]
  rw [← hie, State.inHandler, State.loadFrom, State.setSp_setByte]
  simp [State.setWords, State.jump, State.setSp, State.setSeg, State.finish]

/-- Settles O25: the entry at the same level, its frame at its three addresses. -/
theorem softwareInterruptSameLevel : Obligations.SoftwareInterruptSameLevel := by
  unfold Obligations.SoftwareInterruptSameLevel
  intro s i n g e d a1 a2 a3 hi hp hg hl hs h1 h2 h3
  have hf : Frame s s.regs.sp ([s.flags.toWord, s.cs.val, BitVec.ofNat 16 s.ip1] ++ (none : Option Word).toList) _ _ :=
    frame_three h1 h2 h3
  refine ⟨_, ?next, afterEntry_same s g d a1 a2 a3 _, ?wrote⟩
  case next => rw [exec_int hi, softwareInterrupt_gate hp hg hl, enterGate_same_state hs hf, entering, complete_ok]
  case wrote =>
    exact wrote_inHandler (ex := []) hf (saved_length [] (Nat.zero_le _) _ _ _ none) (.of_mem rfl rfl rfl) id rfl

/-- Settles O26: the entry at an inner level, its frame at its five addresses. -/
theorem softwareInterruptInnerLevel : Obligations.SoftwareInterruptInnerLevel := by
  unfold Obligations.SoftwareInterruptInnerLevel
  intro s i n g e d d2 a1 a2 a3 a4 a5 hi hp hg hl hs sp2 inner h1 h2 h3 h4 h5
  obtain ⟨t, ht, hss, entered, wrote⟩ := enterGate_inner_entered (ret := BitVec.ofNat 16 s.ip1) (ec := none) hp hs
    (frame_five h1 h2 h3 h4 h5)
  refine ⟨⟨t.finish, ?next, hss, entered, wrote⟩, fun hf => ⟨?sp, ?ss⟩⟩
  case next => rw [exec_int hi, softwareInterrupt_gate hp hg hl, ht, entering, complete_ok]
  case sp => rw [State.innerSpAt, hf]; rfl
  case ss => rw [State.innerSsAt, hf]; rfl

/-- Settles O28: the entry of an exception, at either level, with its error code pushed last; and its refusals. -/
theorem exceptionEntrySameLevel : Obligations.ExceptionEntrySameLevel := by
  unfold Obligations.ExceptionEntrySameLevel
  refine ⟨fun s x ec hp => ⟨fun h => ?beyond, fun hl hb ht => ?noGate⟩,
    fun s x ec g e d l sp hp hg => ⟨fun r hr => ?refused, fun hs hf => ?same, fun d2 hs hf => ?inner⟩⟩
  case beyond => exact takeException_refused (deliver_noGate hp (readGate_beyond _ h))
  case noGate => exact takeException_refused (deliver_noGate hp (readGate_noGate _ hl hb ht))
  case refused => exact takeException_refused ((deliver_gate hp hg).trans (enterGate_refused hr rfl))
  case same =>
    obtain ⟨t, ht, hss, entered, wrote⟩ := enterGate_same_entered hp hs hf
    exact ⟨t.finish, takeException_entered ((deliver_gate hp hg).trans (entering_ok.mpr ht)), hss, entered, wrote⟩
  case inner =>
    obtain ⟨t, ht, hss, entered, wrote⟩ := enterGate_inner_entered hp hs hf
    exact ⟨t.finish, takeException_entered ((deliver_gate hp hg).trans (entering_ok.mpr ht)), hss, entered, wrote⟩

end Sys2Proof.Machine
end

section
/-! PROOFS. The events at an instruction boundary (60_exceptions.md R290, 40_segment_register_access.md R140,
44_numeric_coprocessor.md R229). -/

namespace Sys2Proof.Machine

/-- A step depends on its first fetch. -/
theorem step_congr {s t : State} (h : fetchAndRun s = fetchAndRun t) : step s = step t := by
  show runInstruction (9 + 1) s = runInstruction (9 + 1) t
  rw [runInstruction, runInstruction, h]

section
variable {s : State} (h0 : s.prefixLen = 0)
include h0

section
variable {n : Byte} {rest : List Event} (hi : s.inputs = .interrupt n :: rest)
include hi

theorem State.fetching_inputs_tail : s.fetching.inputs = rest := by
  rw [State.fetching_eq_of_boundary h0, hi]
  rfl

variable (hu : s.unguarded)
include hu

/-- What an interrupt offered at the boundary comes to. -/
theorem fetchAndRun_interrupt :
    fetchAndRun s = (if s.accepts then .stop (complete s.fetching (externalInterrupt s.fetching n.toNat))
      else fetchInstr s.fetching : Action).outcome := by
  have he : s.event = .interrupt n := by
    rw [State.event, hi]
    rfl
  have hg : s.fetching.unguarded := hu
  rw [fetchAndRun_eq, nextAction_boundary h0, he, atEvent, guarded_of_unguarded hg]
  rfl

/-- An interrupt that is not accepted is no event. -/
theorem step_interrupt_unaccepted (h : s.accepts = false) : step s = step { s with inputs := .quiet :: rest } := by
  refine step_congr ?_
  have hg : s.fetching.unguarded := hu
  have hf : ({ s with inputs := .quiet :: rest } : State).fetching = s.fetching := by
    rw [State.fetching_eq_of_boundary h0, State.fetching_eq_of_boundary (s := { s with inputs := .quiet :: rest }) h0, hi]
    rfl
  rw [fetchAndRun_interrupt h0 hi hu, h, if_neg Bool.false_ne_true, fetchAndRun_eq,
    nextAction_boundary (s := { s with inputs := .quiet :: rest }) h0, hf]
  exact congrArg Action.outcome (guarded_of_unguarded hg _).symm

/-- An interrupt that is accepted enters its handler. -/
theorem step_interrupt_accepted (h : s.accepts = true) :
    step s = complete s.fetching (externalInterrupt s.fetching n.toNat) := by
  have hf : fetchAndRun s = complete s.fetching (externalInterrupt s.fetching n.toNat) := by
    rw [fetchAndRun_interrupt h0 hi hu, if_pos h]
    rfl
  rw [← hf]
  refine step_eq fun t ht => ?_
  rw [hf] at ht
  simp [State.goesOn, complete_prefixLen ht]

end

/-- A pending exception 9 is delivered where the environment lets it, and where it says nothing more. -/
theorem step_overrun (hu : s.unguarded) (hx : s.exc9Pending = true) (hi : s.inputs = [] ∨ s.inputs.head? = some .exception9) :
    step s = takeException { s.fetching with exc9Pending := false } .segmentOverrun none := by
  have he : s.event = .exception9 := by
    rcases hi with hi | hi
    · rw [State.event, hi]
      rfl
    · rw [State.event, hi]
      rfl
  have hg : s.fetching.unguarded := hu
  have hx' : s.fetching.exc9Pending = true := hx
  have hf : fetchAndRun s = takeException { s.fetching with exc9Pending := false } .segmentOverrun none := by
    rw [fetchAndRun_eq, nextAction_boundary h0, he, atEvent, guarded_of_unguarded hg, if_pos hx']
    rfl
  rw [← hf]
  refine step_eq fun t ht => ?_
  rw [hf] at ht
  obtain ⟨u, -, rfl⟩ := takeException_next.mp ht
  rfl

end

/-- A frame fits on the stack segment, whatever else the state holds. -/
theorem Frame.congr {s t : State} {sp sp' : Word} {vs : List Word} {l : List (Nat × Word)} (h : Frame s sp vs l sp')
    (hc : t.ss.cache = s.ss.cache) (hm : t.prot = s.prot) : Frame t sp vs l sp' := by
  induction h with
  | done sp => exact .done sp
  | push ha _ ih => exact .push ((stackAddress_congr _ hc hm).trans ha) ih

theorem externalInterrupt_beyondTable {s : State} {n : Nat} (hp : s.prot = false) (h : s.idtr.limit.toNat < 4 * n + 3) :
    externalInterrupt s n = .error (.refuse .vectorOutsideTable) := by
  rw [externalInterrupt, hp, if_neg Bool.false_ne_true, enterReal, decide_eq_false (Nat.not_le.mpr h), require_false,
    Try.bind_error, entering]

/-- The entry through the real-mode table whose frame is given word by word. -/
theorem externalInterrupt_real_frame {s : State} {n : Nat} {l : List (Nat × Word)} {sp : Word} (hp : s.prot = false)
    (hl : 4 * n + 3 ≤ s.idtr.limit.toNat) (hb : s.idtr.base.toNat + 4 * n + 4 ≤ physicalSize)
    (hf : Frame s s.regs.sp [s.flags.toWord, s.cs.val, s.ip] l sp) :
    ∃ t, externalInterrupt s n = .ok t ∧ t.regs = { s.regs with sp := sp } ∧
      t.flags = { s.flags with ie := false, tf := false } ∧ t.ip = s.wordFor .interruptVector (s.idtr.base.toNat + 4 * n) ∧
      t.cs = { val := s.wordFor .interruptVector (s.idtr.base.toNat + 4 * n + 2)
               cache := s.cs.cache.atParagraph (s.wordFor .interruptVector (s.idtr.base.toNat + 4 * n + 2)) } ∧
      t.ss = s.ss ∧ t.ds = s.ds ∧ t.es = s.es ∧ t.numeric = s.numeric ∧ t.inputs = s.inputs ∧ WroteWords s t.finish l [] := by
  obtain ⟨a1, a2, a3, h1, h2, h3, rfl, rfl⟩ := hf.three_addresses
  refine ⟨_, externalInterrupt_ok.mpr (.inr ⟨hp, enterReal_at hl hb h1 h2 h3⟩), rfl, rfl, rfl, rfl, ?_, ?_, ?_, ?_, ?_,
    (wrote_three _ _ _ h1 h2 h3).enterReal _ _ _ _⟩
  · simp
  · simp
  · simp
  · simp
  · simp

/-- Settles O57: what the environment does at the boundary decides; then the entry is that of the interrupt or of exception 9. -/
theorem boundaryEvents : Obligations.BoundaryEvents := by
  unfold Obligations.BoundaryEvents
  intro s h0 htf hlevels
  have hu : s.unguarded := ⟨htf, hlevels⟩
  refine ⟨fun n rest hi hclosed => ?unaccepted, fun n rest hi hie hshadow => ?accepted, fun hx hi => step_overrun h0 hu hx hi⟩
  case unaccepted =>
    have hno : s.accepts = false := by
      rcases hclosed with h | h
      · rw [State.accepts, h, Bool.false_and]
      · rw [State.accepts, h, Bool.not_true, Bool.and_false]
    exact step_interrupt_unaccepted h0 hi hu hno
  case accepted =>
    have hacc : s.accepts = true := by rw [State.accepts, hie, hshadow]; rfl
    have hstep := step_interrupt_accepted h0 hi hu hacc
    have hrest := State.fetching_inputs_tail h0 hi
    have refuses {r : Refusal} (h : externalInterrupt s.fetching n.toNat = .error (.refuse r)) : step s = .refused r := by
      rw [hstep, h, complete_error]
      rfl
    have enters {t : State} (h : externalInterrupt s.fetching n.toNat = .ok t) : step s = .next t.finish := by
      rw [hstep, h, complete_ok]
    intro u saved
    have traps (h : externalInterrupt u n.toNat = .error (u.vectorFault n.toNat true)) :
        step s = takeException u .generalProtection (some (vectorCode s.platform.format n.toNat true)) := by
      rw [hstep, h, complete_error]
      rfl
    refine ⟨fun hp hl => refuses ?table,
      ⟨fun hp hl => traps (externalInterrupt_noGate (s := u) hp (readGate_beyond _ hl)),
        fun hp hl hb ht => traps (externalInterrupt_noGate (s := u) hp (readGate_noGate _ hl hb ht)), fun hf => ?code⟩,
      fun g e r hp hg hr => refuses ((externalInterrupt_gate (s := u) hp hg).trans (enterGate_refused hr rfl)),
      fun l sp hp hl hb hf => ?real, fun g e d l sp hp hg hs hf => ?same, fun g e d d2 l sp hp hg hs hf => ?inner⟩
    case table => exact externalInterrupt_beyondTable (s := u) hp hl
    case code => rw [hf, vectorCode_default]; rfl
    case real =>
      obtain ⟨t, ht, hregs, hflags, hip, hcs, hss, hds, hes, hnumeric, hinputs, wrote⟩ :=
        externalInterrupt_real_frame (s := u) hp hl hb (hf.congr rfl rfl)
      have htf' : ({ s.flags with ie := false, tf := false } : Flags) = { s.flags with ie := false } := by simp [htf]
      exact ⟨t.finish, enters ht, hregs, hflags.trans htf', hip, hcs, hss, hds, hes, hnumeric, hinputs.trans hrest, wrote⟩
    case same =>
      obtain ⟨t, ht, hss, entered, wrote⟩ := enterGate_same_entered (s := u) (ret := u.ip) (ec := none) hp hs hf
      exact ⟨t.finish, enters ((externalInterrupt_gate (s := u) hp hg).trans (entering_ok.mpr ht)), hss, entered,
        entered.inputs.trans hrest, wrote⟩
    case inner =>
      obtain ⟨t, ht, hss, entered, wrote⟩ := enterGate_inner_entered (s := u) (ret := u.ip) (ec := none) hp hs hf
      exact ⟨t.finish, enters ((externalInterrupt_gate (s := u) hp hg).trans (entering_ok.mpr ht)), hss, entered,
        entered.inputs.trans hrest, wrote⟩

end Sys2Proof.Machine
end
